-- ==== Sys2Proof/Word.lean ====
section
/-! DEFINITION. The two word types of the hardware: the 8-bit symbol (00_scope.md R9) and the 9-bit
beat `{kind, data}` (30_encoding.md R70, R79). -/

namespace Sys2Proof

/-- A symbol: a byte of the raw payload or a character of the encoded text, 0 .. 255 (00_scope.md R9). -/
abbrev Byte := BitVec 8

/-- A beat on a port: `kind` is bit 8, `data` is bits 7:0 (30_encoding.md R70). -/
abbrev Beat := BitVec 9

end Sys2Proof
end

