-- ==== Sys2Proof/Config.lean ====
section
/-! DEFINITION. The open parameters of an instance of the block (00_scope.md R7, decision D6). The spec
makes each "a natural number or unbounded, an argument of the model": State carries them as plain data
that no step changes, so a statement about every state is a statement about every instance. -/

namespace Sys2Proof

/-- The open parameters: `none` is unbounded (20_memory.md R51). -/
structure Config where
  /-- `ENC_IN_MAX`, the capacity of `ENC.ibuf` in symbols. -/
  encInMax : Option Nat
  /-- `DEC_IN_MAX`, the capacity of `DEC.ibuf` in symbols. -/
  decInMax : Option Nat
  deriving DecidableEq, Repr

/-- DESIGN CHOICE (assumption 4), unsafe: the instance `State.reset` stands for. Both buffers are
unbounded, which 20_memory.md R51 allows ("a model may take it unbounded"). -/
def Config.unbounded : Config := { encInMax := none, decInMax := none }

end Sys2Proof
end

