-- ==== Sys2Proof/Syntax.lean ====
section
/-! DEFINITION. The instructions: one constructor for each of the 33 rows of spec/opcode_table.json,
with the bits the row leaves open as its operand; and the lanes, the places of the hardware where a
word of a row can stand (30_encoding.md R70, R90). -/

namespace Sys2Proof

/-- The two units of the block (10_state.md R20). -/
inductive UnitId where
  | enc
  | dec
  deriving DecidableEq, Repr

/-- The classes of a decoder input symbol (30_encoding.md R82). -/
inductive SymClass where
  /-- whitespace: deleted (43_decoder.md R172) -/
  | ws
  /-- digit character: digit `code - 33` (43_decoder.md R177) -/
  | digit
  /-- the shorthand `z`: five digits 0 (43_decoder.md R173) -/
  | zsh
  /-- out of the alphabet: fault `InvalidInput` (43_decoder.md R174) -/
  | bad
  deriving DecidableEq, Repr

/-- Where a word stands. The word of a beat does not say which port carries it (assumption 2). -/
inductive Lane where
  /-- the input port of a unit, format BEAT -/
  | beatIn (u : UnitId)
  /-- the output port of a unit, format BEAT -/
  | beatOut (u : UnitId)
  /-- the `rst` input of a unit, format PORT -/
  | rst (u : UnitId)
  /-- the `data` field of a data beat into ENC, format BYTE -/
  | byte
  /-- the `data` field of a data beat into DEC, format CHAR -/
  | char
  deriving DecidableEq, Repr

/-- The rows of spec/opcode_table.json. -/
inductive Instr where
  /-- `ENC< PUSH v` (44_port_protocol.md R202) -/
  | encPush (v : Byte)
  /-- `ENC< END`; `data` is ignored (44_port_protocol.md R203, 30_encoding.md R79) -/
  | encEnd (data : Byte)
  /-- `DEC< PUSH v` (44_port_protocol.md R202) -/
  | decPush (v : Byte)
  /-- `DEC< END`; `data` is ignored (44_port_protocol.md R204, 30_encoding.md R79) -/
  | decEnd (data : Byte)
  /-- `ENC> DATA v` (44_port_protocol.md R205) -/
  | encData (v : Byte)
  /-- `ENC> END`; the unit drives `data` = 0x00 (44_port_protocol.md R206) -/
  | encEndOut (data : Byte)
  /-- `DEC> DATA v` (44_port_protocol.md R205) -/
  | decData (v : Byte)
  /-- `DEC> END`; the unit drives `data` = 0x00 (44_port_protocol.md R206) -/
  | decEndOut (data : Byte)
  /-- `RESET` of one unit (44_port_protocol.md R215) -/
  | reset (u : UnitId)
  /-- `BYTE`: a payload byte of ENC (30_encoding.md R70, R84) -/
  | byte (v : Byte)
  /-- `WS_09`: code 0x09 -/
  | ws09
  /-- `WS_0A`: codes 0x0A, 0x0B -/
  | ws0A (x : BitVec 1)
  /-- `WS_0C`: codes 0x0C, 0x0D -/
  | ws0C (x : BitVec 1)
  /-- `WS_20`: code 0x20 -/
  | ws20
  /-- `DIGIT_21`: code 0x21 -/
  | digit21
  /-- `DIGIT_22`: codes 0x22, 0x23 -/
  | digit22 (x : BitVec 1)
  /-- `DIGIT_24`: codes 0x24 .. 0x27 -/
  | digit24 (x : BitVec 2)
  /-- `DIGIT_28`: codes 0x28 .. 0x2F -/
  | digit28 (x : BitVec 3)
  /-- `DIGIT_30`: codes 0x30 .. 0x3F -/
  | digit30 (x : BitVec 4)
  /-- `DIGIT_40`: codes 0x40 .. 0x5F -/
  | digit40 (x : BitVec 5)
  /-- `DIGIT_60`: codes 0x60 .. 0x6F -/
  | digit60 (x : BitVec 4)
  /-- `DIGIT_70`: codes 0x70 .. 0x73 -/
  | digit70 (x : BitVec 2)
  /-- `DIGIT_74`: codes 0x74, 0x75 -/
  | digit74 (x : BitVec 1)
  /-- `ZSH_7A`: code 0x7A -/
  | zsh7A
  /-- `BAD_00`: codes 0x00 .. 0x07 -/
  | bad00 (x : BitVec 3)
  /-- `BAD_08`: code 0x08 -/
  | bad08
  /-- `BAD_0E`: codes 0x0E, 0x0F -/
  | bad0E (x : BitVec 1)
  /-- `BAD_10`: codes 0x10 .. 0x1F -/
  | bad10 (x : BitVec 4)
  /-- `BAD_76`: codes 0x76, 0x77 -/
  | bad76 (x : BitVec 1)
  /-- `BAD_78`: codes 0x78, 0x79 -/
  | bad78 (x : BitVec 1)
  /-- `BAD_7B`: code 0x7B -/
  | bad7B
  /-- `BAD_7C`: codes 0x7C .. 0x7F -/
  | bad7C (x : BitVec 2)
  /-- `BAD_80`: codes 0x80 .. 0xFF -/
  | bad80 (x : BitVec 7)
  deriving DecidableEq, Repr

end Sys2Proof
end

