-- ==== Sys2Proof/WellFormed.lean ====
section
/-! DEFINITION. Which instructions the hardware can show. Every operand is a bit field of its row's
width; the one further condition is that the `data` field of an end beat OUT of a unit is 0x00
(30_encoding.md R79, 44_port_protocol.md R206). -/

namespace Sys2Proof

/-- The check: an output end beat carries `data` = 0x00; every other operand is free. -/
def Instr.wellFormed : Instr → Bool
  | .encEndOut data => data == 0x00#8
  | .decEndOut data => data == 0x00#8
  | .encPush _ | .encEnd _ | .decPush _ | .decEnd _ | .encData _ | .decData _ | .reset _ | .byte _
  | .ws09 | .ws0A _ | .ws0C _ | .ws20
  | .digit21 | .digit22 _ | .digit24 _ | .digit28 _ | .digit30 _ | .digit40 _ | .digit60 _
  | .digit70 _ | .digit74 _ | .zsh7A
  | .bad00 _ | .bad08 | .bad0E _ | .bad10 _ | .bad76 _ | .bad78 _ | .bad7B | .bad7C _
  | .bad80 _ => true

/-- An instruction the hardware can show. -/
abbrev Instr.WF (i : Instr) : Prop := i.wellFormed = true

end Sys2Proof
end

