-- ==== Sys2Proof/Decode.lean ====
section
/-! DEFINITION. The decoder and the encoder, written from spec/opcode_table.json and 30_encoding.md
(R70, R79, R80, R82, R90). The decoder is total: it takes a lane and any number as the word, and gives
the row's instruction or the name of what is wrong with the word. -/

namespace Sys2Proof

/-- Why a word is no instruction on its lane. -/
inductive DecodeError where
  /-- the word has a bit set above the width of the lane's format (30_encoding.md R70) -/
  | tooWide
  /-- `rst` = 0 is no reset (70_reset_and_hazards.md R260) -/
  | rstLow
  /-- an end beat OUT of a unit whose `data` is not 0x00: no unit drives it (30_encoding.md R79) -/
  | endOutData
  /-- no CHAR row matches the code; never the answer, as every code matches one row (30_encoding.md R90) -/
  | noCharRow
  deriving DecidableEq, Repr

/-- The beat `{kind, data}`: `kind` is bit 8, `data` is bits 7:0 (30_encoding.md R70, R79). -/
def mkBeat (kind : BitVec 1) (data : Byte) : Beat := kind ++ data

/-- The `kind` field of a beat (30_encoding.md R70). -/
def beatKind (b : Beat) : BitVec 1 := b.extractLsb' 8 1

/-- The `data` field of a beat (30_encoding.md R70). -/
def beatData (b : Beat) : Byte := b.extractLsb' 0 8

/-- A data beat carrying the symbol `v` (30_encoding.md R79). -/
def dataBeat (v : Byte) : Beat := mkBeat 0#1 v

/-- The end beat a unit drives: `kind` = 1, `data` = 0x00 (30_encoding.md R79). -/
def endBeat : Beat := mkBeat 1#1 0x00#8

/-- One CHAR row of spec/opcode_table.json: `code &&& mask = pattern` selects it. -/
structure CharRow where
  pattern : Byte
  mask : Byte
  /-- the row's instruction, its operand cut from the low bits of the code -/
  instr : Byte → Instr

/-- The CHAR rows of spec/opcode_table.json, in its order (30_encoding.md R90). -/
def charRows : List CharRow :=
  [ ⟨0x09, 0xFF, fun _ => .ws09⟩,
    ⟨0x0A, 0xFE, fun c => .ws0A (c.extractLsb' 0 1)⟩,
    ⟨0x0C, 0xFE, fun c => .ws0C (c.extractLsb' 0 1)⟩,
    ⟨0x20, 0xFF, fun _ => .ws20⟩,
    ⟨0x21, 0xFF, fun _ => .digit21⟩,
    ⟨0x22, 0xFE, fun c => .digit22 (c.extractLsb' 0 1)⟩,
    ⟨0x24, 0xFC, fun c => .digit24 (c.extractLsb' 0 2)⟩,
    ⟨0x28, 0xF8, fun c => .digit28 (c.extractLsb' 0 3)⟩,
    ⟨0x30, 0xF0, fun c => .digit30 (c.extractLsb' 0 4)⟩,
    ⟨0x40, 0xE0, fun c => .digit40 (c.extractLsb' 0 5)⟩,
    ⟨0x60, 0xF0, fun c => .digit60 (c.extractLsb' 0 4)⟩,
    ⟨0x70, 0xFC, fun c => .digit70 (c.extractLsb' 0 2)⟩,
    ⟨0x74, 0xFE, fun c => .digit74 (c.extractLsb' 0 1)⟩,
    ⟨0x7A, 0xFF, fun _ => .zsh7A⟩,
    ⟨0x00, 0xF8, fun c => .bad00 (c.extractLsb' 0 3)⟩,
    ⟨0x08, 0xFF, fun _ => .bad08⟩,
    ⟨0x0E, 0xFE, fun c => .bad0E (c.extractLsb' 0 1)⟩,
    ⟨0x10, 0xF0, fun c => .bad10 (c.extractLsb' 0 4)⟩,
    ⟨0x76, 0xFE, fun c => .bad76 (c.extractLsb' 0 1)⟩,
    ⟨0x78, 0xFE, fun c => .bad78 (c.extractLsb' 0 1)⟩,
    ⟨0x7B, 0xFF, fun _ => .bad7B⟩,
    ⟨0x7C, 0xFC, fun c => .bad7C (c.extractLsb' 0 2)⟩,
    ⟨0x80, 0x80, fun c => .bad80 (c.extractLsb' 0 7)⟩ ]

/-- Does the row match the code? -/
def CharRow.matches (r : CharRow) (code : Byte) : Bool := (code &&& r.mask) == r.pattern

/-- The instruction of the CHAR row that matches a code (30_encoding.md R90). -/
def decodeChar (code : Byte) : Option Instr :=
  (charRows.find? (fun r => r.matches code)).map (fun r => r.instr code)

/-- An input beat of a unit (30_encoding.md R80): `kind` = 0 is PUSH, `kind` = 1 is END. -/
def decodeBeatIn (u : UnitId) (b : Beat) : Instr :=
  match u with
  | .enc => if beatKind b = 0#1 then .encPush (beatData b) else .encEnd (beatData b)
  | .dec => if beatKind b = 0#1 then .decPush (beatData b) else .decEnd (beatData b)

/-- An output beat of a unit (30_encoding.md R80): `kind` = 0 is DATA, `kind` = 1 is END. -/
def decodeBeatOut (u : UnitId) (b : Beat) : Instr :=
  match u with
  | .enc => if beatKind b = 0#1 then .encData (beatData b) else .encEndOut (beatData b)
  | .dec => if beatKind b = 0#1 then .decData (beatData b) else .decEndOut (beatData b)

/-- The decoder: the instruction a word is on a lane, or why it is none. -/
def decode (l : Lane) (w : Nat) : Except DecodeError Instr :=
  match l with
  | .beatIn u =>
    if w < 512 then .ok (decodeBeatIn u (BitVec.ofNat 9 w)) else .error .tooWide
  | .beatOut u =>
    if w < 512 then
      if (decodeBeatOut u (BitVec.ofNat 9 w)).wellFormed then
        .ok (decodeBeatOut u (BitVec.ofNat 9 w))
      else .error .endOutData
    else .error .tooWide
  | .rst u =>
    if w = 1 then .ok (.reset u) else if w = 0 then .error .rstLow else .error .tooWide
  | .byte =>
    if w < 256 then .ok (.byte (BitVec.ofNat 8 w)) else .error .tooWide
  | .char =>
    if w < 256 then
      match decodeChar (BitVec.ofNat 8 w) with
      | some i => .ok i
      | none => .error .noCharRow
    else .error .tooWide

/-- The code of a CHAR row's instruction: the row's fixed bits above its operand. `none` for the
instructions of the other formats. -/
def charCode : Instr → Option Byte
  | .ws09 => some 0x09#8
  | .ws0A x => some (0b0000101#7 ++ x)
  | .ws0C x => some (0b0000110#7 ++ x)
  | .ws20 => some 0x20#8
  | .digit21 => some 0x21#8
  | .digit22 x => some (0b0010001#7 ++ x)
  | .digit24 x => some (0b001001#6 ++ x)
  | .digit28 x => some (0b00101#5 ++ x)
  | .digit30 x => some (0b0011#4 ++ x)
  | .digit40 x => some (0b010#3 ++ x)
  | .digit60 x => some (0b0110#4 ++ x)
  | .digit70 x => some (0b011100#6 ++ x)
  | .digit74 x => some (0b0111010#7 ++ x)
  | .zsh7A => some 0x7A#8
  | .bad00 x => some (0b00000#5 ++ x)
  | .bad08 => some 0x08#8
  | .bad0E x => some (0b0000111#7 ++ x)
  | .bad10 x => some (0b0001#4 ++ x)
  | .bad76 x => some (0b0111011#7 ++ x)
  | .bad78 x => some (0b0111100#7 ++ x)
  | .bad7B => some 0x7B#8
  | .bad7C x => some (0b011111#6 ++ x)
  | .bad80 x => some (0b1#1 ++ x)
  | .encPush _ | .encEnd _ | .decPush _ | .decEnd _ | .encData _ | .encEndOut _ | .decData _
  | .decEndOut _ | .reset _ | .byte _ => none

/-- The class spec/opcode_table.json gives a CHAR row; `none` for the other formats. -/
def rowClass : Instr → Option SymClass
  | .ws09 | .ws0A _ | .ws0C _ | .ws20 => some .ws
  | .digit21 | .digit22 _ | .digit24 _ | .digit28 _ | .digit30 _ | .digit40 _ | .digit60 _
  | .digit70 _ | .digit74 _ => some .digit
  | .zsh7A => some .zsh
  | .bad00 _ | .bad08 | .bad0E _ | .bad10 _ | .bad76 _ | .bad78 _ | .bad7B | .bad7C _
  | .bad80 _ => some .bad
  | .encPush _ | .encEnd _ | .decPush _ | .decEnd _ | .encData _ | .encEndOut _ | .decData _
  | .decEndOut _ | .reset _ | .byte _ => none

/-- The encoder: the lane and the word of an instruction, from the same rows. -/
def encode (i : Instr) : Lane × Nat :=
  match i with
  | .encPush v => (.beatIn .enc, (mkBeat 0#1 v).toNat)
  | .encEnd data => (.beatIn .enc, (mkBeat 1#1 data).toNat)
  | .decPush v => (.beatIn .dec, (mkBeat 0#1 v).toNat)
  | .decEnd data => (.beatIn .dec, (mkBeat 1#1 data).toNat)
  | .encData v => (.beatOut .enc, (mkBeat 0#1 v).toNat)
  | .encEndOut data => (.beatOut .enc, (mkBeat 1#1 data).toNat)
  | .decData v => (.beatOut .dec, (mkBeat 0#1 v).toNat)
  | .decEndOut data => (.beatOut .dec, (mkBeat 1#1 data).toNat)
  | .reset u => (.rst u, 1)
  | .byte v => (.byte, v.toNat)
  | .ws09 | .ws0A _ | .ws0C _ | .ws20
  | .digit21 | .digit22 _ | .digit24 _ | .digit28 _ | .digit30 _ | .digit40 _ | .digit60 _
  | .digit70 _ | .digit74 _ | .zsh7A
  | .bad00 _ | .bad08 | .bad0E _ | .bad10 _ | .bad76 _ | .bad78 _ | .bad7B | .bad7C _
  | .bad80 _ => (.char, ((charCode i).getD 0x00#8).toNat)

/-- The lane the host's table word is read on. DESIGN CHOICE (assumption 2), safe: one word stands for
rows of several lanes and does not say which; a word of more than 8 bits is read on the ENC input, the
8-bit word 1 on the `rst` input of ENC, and every other 8-bit word as a CHAR of the DEC input. -/
def tableLane (nbits w : Nat) : Lane :=
  if 8 < nbits then .beatIn .enc else if w = 1 then .rst .enc else .char

/-- The instruction of a word numbered as spec/opcode_table.json numbers it, on `tableLane`. -/
def decodeTableWord (nbits w : Nat) : Option Instr :=
  match decode (tableLane nbits w) w with
  | .ok i => some i
  | .error _ => none

end Sys2Proof
end

