-- ==== Sys2Proof/Machine/State.lean ====
section
/-! DEFINITION. The machine's state as plain data: the record of each unit (10_state.md R22), the open
parameters (00_scope.md R7), and the host side of the ports (44_port_protocol.md R200, R211): what the
host has taken and what it will drive. -/

namespace Sys2Proof.Machine

/-- `U.phase` (10_state.md R23). -/
inductive Phase where
  /-- accepts input beats, offers no output -/
  | load
  /-- offers output beats, accepts no input -/
  | drain
  /-- has faulted: accepts and offers nothing until reset -/
  | fault
  deriving DecidableEq, Repr

/-- The whole architectural state of one unit (10_state.md R22). -/
structure UnitState where
  phase : Phase
  /-- the input message received so far, in arrival order (10_state.md R24) -/
  ibuf : List Byte
  /-- the part of the output message not yet handed out, in delivery order (10_state.md R24) -/
  obuf : List Byte
  /-- fault cause code (10_state.md R27) -/
  err : BitVec 2
  /-- the symbol that caused the fault (10_state.md R28) -/
  errSym : Byte
  /-- the index of that symbol (10_state.md R28) -/
  errIdx : Nat
  deriving DecidableEq, Repr

/-- The reset value of every field of a unit (10_state.md R33). -/
def UnitState.reset : UnitState :=
  { phase := .load, ibuf := [], obuf := [], err := 0#2, errSym := 0x00#8, errIdx := 0 }

/-- The inputs of one unit at one rising edge of its clock (44_port_protocol.md R200). -/
structure Pins where
  rst : Bool
  inValid : Bool
  inKind : BitVec 1
  inData : Byte
  outReady : Bool
  deriving DecidableEq, Repr

/-- One thing the host does (assumptions 1 and 3): drive the pins of one unit at one clock edge, or
offer a data beat to ENC named by its BYTE row or to DEC named by its CHAR row. -/
inductive Drive where
  | edge (u : UnitId) (p : Pins)
  | byte (v : Byte)
  | char (code : Byte)
  deriving DecidableEq, Repr

/-- The machine: the two units, the parameters of the instance, and the host's side of the ports. -/
structure State where
  /-- the open parameters; no step changes them (10_state.md R32) -/
  cfg : Config
  /-- the unit ENC -/
  enc : UnitState
  /-- the unit DEC -/
  dec : UnitState
  /-- the beats the host has taken from ENC, oldest first (the model's own, assumption 7) -/
  encTaken : List Beat
  /-- the beats the host has taken from DEC, oldest first (the model's own, assumption 7) -/
  decTaken : List Beat
  /-- what the host drives next, in order (the model's own, assumption 1) -/
  script : List Drive
  deriving DecidableEq, Repr

/-- The machine of an instance `c` right after the reset of both units (10_state.md R33). -/
def State.resetWith (c : Config) : State :=
  { cfg := c, enc := UnitState.reset, dec := UnitState.reset, encTaken := [], decTaken := [],
    script := [] }

/-- The machine right after reset (10_state.md R33), both capacities unbounded (assumption 4). -/
def State.reset : State := State.resetWith Config.unbounded

/-- Reasons for the HOST outcome `fault`: there are none (assumption 14). The faults of the spec,
`InvalidInput` and `BufferOverflow`, are entries into the phase FAULT (60_exceptions.md R236), so the
step that raises one answers a NEXT state. Safe: no step ends here. -/
inductive Fault where
  deriving DecidableEq, Repr

/-- Reasons for the HOST outcome `refused`. -/
inductive Refusal where
  /-- An arm of `exec` without a meaning. No arm raises it: every instruction has its meaning. Safe. -/
  | notModelled (mnemonic : String)
  /-- `step` raises it for a fetched word that is no instruction on its lane. No state reaches it, since
  a fetched word is always a word the hardware can show. Safe. -/
  | undecodable (why : DecodeError)
  deriving DecidableEq, Repr

end Sys2Proof.Machine
end

