-- ==== Sys2Proof/Machine/Operands.lean ====
section
/-! DEFINITION. The constants of the block (00_scope.md R7), the symbol classes (30_encoding.md R82) and
the two operand forms: code to digit and digit to code (30_encoding.md R71, R81). -/

namespace Sys2Proof.Machine

/-- `RADIX_BYTE` (00_scope.md R7). -/
abbrev radixByte : Nat := 256
/-- `GROUP_BYTES` (00_scope.md R7). -/
abbrev groupBytes : Nat := 4
/-- `RADIX_CHAR` (00_scope.md R7). -/
abbrev radixChar : Nat := 85
/-- `GROUP_CHARS` (00_scope.md R7). -/
abbrev groupChars : Nat := 5
/-- `CODE_OFFSET` (00_scope.md R7, 30_encoding.md R71). -/
abbrev codeOffset : Nat := 33
/-- `PAD_BYTE` (00_scope.md R7, 30_encoding.md R75). -/
abbrev padByte : Byte := 0x00#8
/-- `PAD_CHAR`, `u` (00_scope.md R7, 30_encoding.md R75). -/
abbrev padChar : Byte := 0x75#8
/-- `Z_CHAR` (00_scope.md R7, 30_encoding.md R74). -/
abbrev zChar : Byte := 0x7A#8
/-- The digit character 0, `!` (30_encoding.md R74). -/
abbrev bangChar : Byte := 0x21#8
/-- The opening marker `<~` (30_encoding.md R73). -/
def openMarker : List Byte := [0x3C#8, 0x7E#8]
/-- The closing marker `~>` (30_encoding.md R73). -/
def closeMarker : List Byte := [0x7E#8, 0x3E#8]
/-- The five symbols one `z` stands for (30_encoding.md R74). -/
def fiveBangs : List Byte := List.replicate 5 bangChar
/-- `WS_SET` (00_scope.md R7, 30_encoding.md R76). -/
def wsSet : List Byte := [0x09#8, 0x0A#8, 0x0B#8, 0x0C#8, 0x0D#8, 0x20#8]

/-- The class of a decoder input symbol, by its code alone (30_encoding.md R82). -/
def symClass (c : Byte) : SymClass :=
  if c ∈ wsSet then .ws
  else if 0x21 ≤ c.toNat ∧ c.toNat ≤ 0x75 then .digit
  else if c = zChar then .zsh
  else .bad

/-- The digit value of a digit character, `code - 33` (30_encoding.md R71, R81). Only codes of class
DIGIT reach it; on a lower code the natural subtraction gives 0 (assumption 15). -/
def digitValue (c : Byte) : Nat := c.toNat - codeOffset

/-- The code of a digit, `digit + 33` (30_encoding.md R71, R81). -/
def digitChar (d : Nat) : Byte := BitVec.ofNat 8 (d + codeOffset)

/-- The symbol of a base-256 digit (00_scope.md R9). -/
def byteOfDigit (d : Nat) : Byte := BitVec.ofNat 8 d

end Sys2Proof.Machine
end

