-- ==== Sys2Proof/Machine/BaseConverter.lean ====
section
/-! DEFINITION. The base converter of 40_base_converter.md: `D2I` and `I2D`, on natural numbers
(00_scope.md R8: numbers are non-negative and of unbounded size). -/

namespace Sys2Proof.Machine

/-- `D2I(radix, digits)`: fold left from 0, `value * radix + digit` (40_base_converter.md R100). -/
def d2i (radix : Nat) (digits : List Nat) : Nat :=
  digits.foldl (fun value digit => value * radix + digit) 0

/-- The loop of `I2D`: `out` holds the less significant digits already produced. -/
def i2dLoop (radix : Nat) : Nat → Nat → List Nat → List Nat
  | 0, _, out => out
  | width + 1, value, out => i2dLoop radix width (value / radix) ((value % radix) :: out)

/-- `I2D(radix, width, value)`: exactly `width` digits, most significant first; the part of `value` above
`radix ^ width` is dropped without a flag (40_base_converter.md R101, R102). -/
def i2d (radix width value : Nat) : List Nat := i2dLoop radix width value []

end Sys2Proof.Machine
end

