-- ==== Sys2Proof/Machine/Grouping.lean ====
section
/-! DEFINITION. The grouping and padding layer of 41_grouping_padding.md: `PADCOUNT`, `PAD`, `SPLIT`,
`TRIM`. -/

namespace Sys2Proof.Machine

/-- `PADCOUNT(w, n)` (41_grouping_padding.md R120). -/
def padCount (w n : Nat) : Nat := (w - n % w) % w

/-- `PAD(s, k, v)` (41_grouping_padding.md R121). -/
def pad (s : List Byte) (k : Nat) (v : Byte) : List Byte := s ++ List.replicate k v

/-- `SPLIT(w, s)`: group `k` is `s[w*k .. w*k + w)` (41_grouping_padding.md R122). Never applied to a
sequence whose length is not a multiple of `w`; there it would drop the tail (assumption 15). -/
def split (w : Nat) (s : List Byte) : List (List Byte) :=
  (List.range (s.length / w)).map (fun k => (s.drop (w * k)).take w)

/-- `TRIM(s, k)`: drop the last `k` units; a count of 0 removes nothing (41_grouping_padding.md R123,
R125). -/
def trim (s : List Byte) (k : Nat) : List Byte :=
  if k = 0 then s else s.take (s.length - k)

end Sys2Proof.Machine
end

