-- ==== Sys2Proof/Machine/Decoder.lean ====
section
/-! DEFINITION. The decoder datapath of 43_decoder.md: `STRIPM`, `CHECK`, `STRIPW`, `ZEXPAND`, `DECGRP`,
`DECODE`. -/

namespace Sys2Proof.Machine

/-- The result of `DECODE`: bytes, or the fault `InvalidInput` (43_decoder.md R170). -/
inductive DecodeResult where
  | bytes (b : List Byte)
  | invalidInput (sym : Byte) (idx : Nat)
  deriving DecidableEq, Repr

/-- How many symbols `STRIPM` removes at the front: 2 if the opening marker is at indices 0 and 1
(43_decoder.md R171). -/
def openLen (s : List Byte) : Nat := if s.take 2 = openMarker then 2 else 0

/-- How many symbols `STRIPM` removes at the end of what remains: 2 if its last two symbols are the
closing marker (43_decoder.md R171). -/
def closeLen (r : List Byte) : Nat :=
  if 2 ≤ r.length ∧ r.drop (r.length - 2) = closeMarker then 2 else 0

/-- `STRIPM(s)`: the message without markers and the number of symbols removed at the front. The opening
marker is tested first, the closing one on what remains, each at most once (43_decoder.md R171). -/
def stripm (s : List Byte) : List Byte × Nat :=
  let a := openLen s
  let r := s.drop a
  let b := closeLen r
  (r.take (r.length - b), a)

/-- `CHECK(t, a)`: the first symbol of class BAD and its index in the raw input, lowest index first
(43_decoder.md R174). -/
def check : List Byte → Nat → Option (Byte × Nat)
  | [], _ => none
  | c :: rest, a => if symClass c = .bad then some (c, a) else check rest (a + 1)

/-- `STRIPW(t)`: delete the whitespace symbols (43_decoder.md R172). -/
def stripw (t : List Byte) : List Byte := t.filter (fun c => symClass c != .ws)

/-- What `ZEXPAND` puts for one symbol (43_decoder.md R173). -/
def zexpandSym (c : Byte) : List Byte := if c = zChar then fiveBangs else [c]

/-- `ZEXPAND(u)`: every `z` becomes five `!`, wherever it stands (43_decoder.md R173, R183). -/
def zexpand (u : List Byte) : List Byte := (u.map zexpandSym).flatten

/-- `DECGRP(c)`: one character group to one byte group; the value is taken modulo 2^32 by the truncation
of `I2D` (43_decoder.md R177, R181). -/
def decGrp (c : List Byte) : List Byte :=
  (i2d radixByte groupBytes (d2i radixChar (c.map digitValue))).map byteOfDigit

/-- Steps 3 to 7 of `DECODE`: pad with `u`, split, convert, join, trim (43_decoder.md R175 to R179). -/
def decodeDigits (e : List Byte) : List Byte :=
  let k := padCount groupChars e.length
  let padded := pad e k padChar
  let groups := split groupChars padded
  let joined := (groups.map decGrp).flatten
  trim joined k

/-- `DECODE(s)` (43_decoder.md R180). -/
def decodeMsg (s : List Byte) : DecodeResult :=
  let t := (stripm s).1
  let a := (stripm s).2
  match check t a with
  | some (sym, idx) => .invalidInput sym idx
  | none => .bytes (decodeDigits (zexpand (stripw t)))

end Sys2Proof.Machine
end

