-- ==== Sys2Proof/Machine/Encoder.lean ====
section
/-! DEFINITION. The encoder datapath of 42_encoder.md: `ENCGRP`, `CORE`, `ZPACK`, `WRAP`, `ENCODE`. -/

namespace Sys2Proof.Machine

/-- `ENCGRP(g)`: one byte group to one character group (42_encoder.md R143). -/
def encGrp (g : List Byte) : List Byte :=
  (i2d radixChar groupChars (d2i radixByte (g.map BitVec.toNat))).map digitChar

/-- `CORE(bytes)`: pad, split, convert, join, trim; steps 1 to 5 (42_encoder.md R141 to R146). -/
def coreString (bytes : List Byte) : List Byte :=
  let k := padCount groupBytes bytes.length
  let padded := pad bytes k padByte
  let groups := split groupBytes padded
  let joined := (groups.map encGrp).flatten
  trim joined k

/-- The scan of `ZPACK`. `skip` is how many symbols of the last match are still to be passed over: a
match consumes all five and a consumed symbol is not looked at again (42_encoder.md R148). -/
def zpackScan : Nat → List Byte → List Byte
  | _, [] => []
  | skip + 1, _ :: rest => zpackScan skip rest
  | 0, c :: rest =>
    if (c :: rest).take 5 = fiveBangs then zChar :: zpackScan 4 rest
    else c :: zpackScan 0 rest

/-- `ZPACK(core)`: every run of five `!`, scanned from index 0, becomes one `z`, across group boundaries
(42_encoder.md R147, R148, 90_conflicts.md C1). -/
def zpack (s : List Byte) : List Byte := zpackScan 0 s

/-- `WRAP(s)`: both markers, always (42_encoder.md R149). -/
def wrap (s : List Byte) : List Byte := openMarker ++ s ++ closeMarker

/-- `ENCODE(bytes)`: trim, then shorthand, then markers (42_encoder.md R150). -/
def encodeMsg (bytes : List Byte) : List Byte := wrap (zpack (coreString bytes))

end Sys2Proof.Machine
end

