-- ==== Sys2Proof/Machine/Flags.lean ====
section
/-! DEFINITION. The fault cause codes (60_exceptions.md R230) and the output signals of a unit, functions
of its state and of nothing else (10_state.md R35). -/

namespace Sys2Proof.Machine

/-- Code 0: the unit has not faulted (60_exceptions.md R230). -/
def errNone : BitVec 2 := 0#2
/-- Code 1: `InvalidInput` (60_exceptions.md R230, R231). -/
def errInvalidInput : BitVec 2 := 1#2
/-- Code 2: `BufferOverflow` (60_exceptions.md R230, R232). -/
def errBufferOverflow : BitVec 2 := 2#2

/-- `in_ready` (10_state.md R35). -/
def inReady (x : UnitState) : Bool := x.phase == .load

/-- `out_valid` (10_state.md R35). -/
def outValid (x : UnitState) : Bool := x.phase == .drain

/-- `out_kind`: 1 (END) in DRAIN with nothing left, else 0 (10_state.md R35). -/
def outKind (x : UnitState) : BitVec 1 :=
  if x.phase = .drain ∧ x.obuf = [] then 1#1 else 0#1

/-- `out_data`: the next symbol in DRAIN, else 0x00 (10_state.md R35). -/
def outData (x : UnitState) : Byte :=
  if x.phase = .drain then x.obuf.headD 0x00#8 else 0x00#8

/-- The signal `fault` (10_state.md R35). -/
def faultOut (x : UnitState) : Bool := x.phase == .fault

/-- The signal `err[1:0]` (10_state.md R35). -/
def errOut (x : UnitState) : BitVec 2 := x.err

/-- The signal `err_sym[7:0]` (10_state.md R35). -/
def errSymOut (x : UnitState) : Byte := x.errSym

/-- The signal `err_idx` (10_state.md R35). -/
def errIdxOut (x : UnitState) : Nat := x.errIdx

end Sys2Proof.Machine
end

