-- ==== Sys2Proof/Machine/Ops.lean ====
section
/-! DEFINITION. The named operations over the state: reaching a unit, the buffer primitives of
44_port_protocol.md R217, fault entry (60_exceptions.md R236), the way out of a fault, which is reset
(60_exceptions.md R238), and the delivery of a beat to the host (44_port_protocol.md R205, R206). -/

namespace Sys2Proof.Machine

/-- The state of a unit. -/
def getUnit (u : UnitId) (s : State) : UnitState :=
  match u with
  | .enc => s.enc
  | .dec => s.dec

/-- Write the state of a unit; the other unit is not touched (10_state.md R20). -/
def setUnit (u : UnitId) (x : UnitState) (s : State) : State :=
  match u with
  | .enc => { s with enc := x }
  | .dec => { s with dec := x }

/-- `U_IN_MAX`, `none` if unbounded (10_state.md R22, 00_scope.md R7). -/
def inMax (u : UnitId) (s : State) : Option Nat :=
  match u with
  | .enc => s.cfg.encInMax
  | .dec => s.cfg.decInMax

/-- Hand a beat to the host on the output port of a unit (44_port_protocol.md R205, R206). -/
def deliver (u : UnitId) (b : Beat) (s : State) : State :=
  match u with
  | .enc => { s with encTaken := s.encTaken ++ [b] }
  | .dec => { s with decTaken := s.decTaken ++ [b] }

/-- Append one symbol at index `len` of a buffer (44_port_protocol.md R217, 00_scope.md R11). -/
def bufAppend (b : List Byte) (v : Byte) : List Byte := b ++ [v]

/-- TAKING A FAULT: the record the unit is left in when a step raises fault `code` with `sym` and `idx`
(60_exceptions.md R236). Nothing of the old record survives. -/
def faultEntry (code : BitVec 2) (sym : Byte) (idx : Nat) : UnitState :=
  { phase := .fault, ibuf := [], obuf := [], err := code, errSym := sym, errIdx := idx }

/-- THE ONLY WAY OUT OF A FAULT: reset, in any phase, whatever the unit was doing
(60_exceptions.md R238, 70_reset_and_hazards.md R260, R261). -/
def resetUnit (u : UnitId) (s : State) : State := setUnit u UnitState.reset s

/-- `PUSH v` on a unit's record with capacity `max` (44_port_protocol.md R202). Outside LOAD the beat is
not accepted and nothing changes (44_port_protocol.md R209). -/
def pushUnit (max : Option Nat) (v : Byte) (x : UnitState) : UnitState :=
  if x.phase = .load then
    match max with
    | some m =>
      if x.ibuf.length = m then faultEntry errBufferOverflow v m
      else { x with ibuf := bufAppend x.ibuf v }
    | none => { x with ibuf := bufAppend x.ibuf v }
  else x

/-- `PUSH v` on unit `u` of the machine (44_port_protocol.md R202). -/
def push (u : UnitId) (v : Byte) (s : State) : State :=
  setUnit u (pushUnit (inMax u s) v (getUnit u s)) s

/-- Does the unit present the beat `DATA v`? It is in DRAIN and `v` is first in `obuf`
(10_state.md R35, 44_port_protocol.md R205). -/
def presentsData (v : Byte) (x : UnitState) : Bool := x.phase == .drain && x.obuf.head? == some v

/-- Does the unit present an end beat with this `data` field? It is in DRAIN with nothing left, and the
field is 0x00 (10_state.md R35, 44_port_protocol.md R206). -/
def presentsEnd (data : Byte) (x : UnitState) : Bool :=
  x.phase == .drain && x.obuf == [] && data == 0x00#8

/-- `POP` with data on unit `u`: the host takes the beat `DATA v`. It is a step exactly when the unit
presents that beat (44_port_protocol.md R205, assumption 6). -/
def popData (u : UnitId) (v : Byte) (s : State) : State :=
  match presentsData v (getUnit u s) with
  | true =>
    deliver u (dataBeat v) (setUnit u { getUnit u s with obuf := (getUnit u s).obuf.drop 1 } s)
  | false => s

/-- `POP` at the end on unit `u`: the host takes the end beat and the unit returns to LOAD. It is a step
exactly when the unit presents that beat (44_port_protocol.md R206, assumption 6). -/
def popEnd (u : UnitId) (data : Byte) (s : State) : State :=
  match presentsEnd data (getUnit u s) with
  | true =>
    deliver u (mkBeat 1#1 data) (setUnit u { getUnit u s with phase := .load } s)
  | false => s

end Sys2Proof.Machine
end

