-- ==== Sys2Proof/Machine/Beats.lean ====
section
/-! DEFINITION. The meanings of the eight BEAT rows of spec/opcode_table.json
(44_port_protocol.md R202 to R206). A beat that is offered while the unit does not accept it changes
nothing (44_port_protocol.md R201, R209). An output beat the unit does not present is no step of R207;
that nothing changes there is the model's choice (assumption 6). -/

namespace Sys2Proof.Machine

/-- `ENC< PUSH v` (44_port_protocol.md R202). -/
def execEncPush (v : Byte) (s : State) : Host.Outcome State Fault Refusal :=
  .next (push .enc v s)

/-- `DEC< PUSH v` (44_port_protocol.md R202); the symbol is not examined. -/
def execDecPush (v : Byte) (s : State) : Host.Outcome State Fault Refusal :=
  .next (push .dec v s)

/-- `END` on the record of ENC: close the message and encode it in one step
(44_port_protocol.md R203). -/
def endEnc (x : UnitState) : UnitState :=
  if x.phase = .load then
    { x with obuf := encodeMsg x.ibuf, ibuf := [], phase := .drain }
  else x

/-- `END` on the record of DEC: close the message and decode it in one step, or enter the fault
`InvalidInput` with no output (44_port_protocol.md R204). -/
def endDec (x : UnitState) : UnitState :=
  if x.phase = .load then
    match decodeMsg x.ibuf with
    | .bytes b => { x with obuf := b, ibuf := [], phase := .drain }
    | .invalidInput sym idx => faultEntry errInvalidInput sym idx
  else x

/-- `ENC< END` (44_port_protocol.md R203); the `data` field is ignored (30_encoding.md R79, R85). -/
def execEncEnd (_data : Byte) (s : State) : Host.Outcome State Fault Refusal :=
  .next (setUnit .enc (endEnc (getUnit .enc s)) s)

/-- `DEC< END` (44_port_protocol.md R204); the `data` field is ignored (30_encoding.md R79, R85). -/
def execDecEnd (_data : Byte) (s : State) : Host.Outcome State Fault Refusal :=
  .next (setUnit .dec (endDec (getUnit .dec s)) s)

/-- `ENC> DATA v` (44_port_protocol.md R205). -/
def execEncData (v : Byte) (s : State) : Host.Outcome State Fault Refusal :=
  .next (popData .enc v s)

/-- `DEC> DATA v` (44_port_protocol.md R205). -/
def execDecData (v : Byte) (s : State) : Host.Outcome State Fault Refusal :=
  .next (popData .dec v s)

/-- `ENC> END` (44_port_protocol.md R206). -/
def execEncEndOut (data : Byte) (s : State) : Host.Outcome State Fault Refusal :=
  .next (popEnd .enc data s)

/-- `DEC> END` (44_port_protocol.md R206). -/
def execDecEndOut (data : Byte) (s : State) : Host.Outcome State Fault Refusal :=
  .next (popEnd .dec data s)

end Sys2Proof.Machine
end

