-- ==== Sys2Proof/Machine/Reset.lean ====
section
/-! DEFINITION. The meaning of the PORT row `RESET` (44_port_protocol.md R215,
70_reset_and_hazards.md R260 to R262). -/

namespace Sys2Proof.Machine

/-- `RESET` of unit `u`: every field of the unit takes its reset value, in every phase; the other unit
and the host's side are not touched (44_port_protocol.md R215, 70_reset_and_hazards.md R260, R262). -/
def execReset (u : UnitId) (s : State) : Host.Outcome State Fault Refusal :=
  .next (resetUnit u s)

end Sys2Proof.Machine
end

