-- ==== Sys2Proof/Machine/Symbols.lean ====
section
/-! DEFINITION. The meanings of the BYTE row and of the 23 CHAR rows of spec/opcode_table.json. A symbol
reaches a unit only as the `data` field of a data beat (30_encoding.md R70), so the step that a symbol
row names is the acceptance of that beat: the PUSH of its code (44_port_protocol.md R202), which stores
it unexamined; its class takes effect when DEC runs END (30_encoding.md R82, R90). DEDUCED
(assumption 3), safe. -/

namespace Sys2Proof.Machine

/-- Accept one symbol as the data beat that carries it (44_port_protocol.md R202). -/
def acceptSymbol (u : UnitId) (code : Byte) (s : State) : Host.Outcome State Fault Refusal :=
  .next (push u code s)

/-- `BYTE`: every code is a legal payload byte of ENC (30_encoding.md R84). -/
def execByte (v : Byte) (s : State) : Host.Outcome State Fault Refusal :=
  acceptSymbol .enc v s

/-- `WS_09`: whitespace, deleted at END (43_decoder.md R172). -/
def execWs09 (s : State) : Host.Outcome State Fault Refusal :=
  acceptSymbol .dec 0x09#8 s

/-- `WS_0A`: whitespace, deleted at END (43_decoder.md R172). -/
def execWs0A (x : BitVec 1) (s : State) : Host.Outcome State Fault Refusal :=
  acceptSymbol .dec (0b0000101#7 ++ x) s

/-- `WS_0C`: whitespace, deleted at END (43_decoder.md R172). -/
def execWs0C (x : BitVec 1) (s : State) : Host.Outcome State Fault Refusal :=
  acceptSymbol .dec (0b0000110#7 ++ x) s

/-- `WS_20`: whitespace, deleted at END (43_decoder.md R172). -/
def execWs20 (s : State) : Host.Outcome State Fault Refusal :=
  acceptSymbol .dec 0x20#8 s

/-- `DIGIT_21`: digit character, digit `code - 33` at END (43_decoder.md R177). -/
def execDigit21 (s : State) : Host.Outcome State Fault Refusal :=
  acceptSymbol .dec 0x21#8 s

/-- `DIGIT_22`: digit character, digit `code - 33` at END (43_decoder.md R177). -/
def execDigit22 (x : BitVec 1) (s : State) : Host.Outcome State Fault Refusal :=
  acceptSymbol .dec (0b0010001#7 ++ x) s

/-- `DIGIT_24`: digit character, digit `code - 33` at END (43_decoder.md R177). -/
def execDigit24 (x : BitVec 2) (s : State) : Host.Outcome State Fault Refusal :=
  acceptSymbol .dec (0b001001#6 ++ x) s

/-- `DIGIT_28`: digit character, digit `code - 33` at END (43_decoder.md R177). -/
def execDigit28 (x : BitVec 3) (s : State) : Host.Outcome State Fault Refusal :=
  acceptSymbol .dec (0b00101#5 ++ x) s

/-- `DIGIT_30`: digit character, digit `code - 33` at END (43_decoder.md R177). -/
def execDigit30 (x : BitVec 4) (s : State) : Host.Outcome State Fault Refusal :=
  acceptSymbol .dec (0b0011#4 ++ x) s

/-- `DIGIT_40`: digit character, digit `code - 33` at END (43_decoder.md R177). -/
def execDigit40 (x : BitVec 5) (s : State) : Host.Outcome State Fault Refusal :=
  acceptSymbol .dec (0b010#3 ++ x) s

/-- `DIGIT_60`: digit character, digit `code - 33` at END (43_decoder.md R177). -/
def execDigit60 (x : BitVec 4) (s : State) : Host.Outcome State Fault Refusal :=
  acceptSymbol .dec (0b0110#4 ++ x) s

/-- `DIGIT_70`: digit character, digit `code - 33` at END (43_decoder.md R177). -/
def execDigit70 (x : BitVec 2) (s : State) : Host.Outcome State Fault Refusal :=
  acceptSymbol .dec (0b011100#6 ++ x) s

/-- `DIGIT_74`: digit character, digit `code - 33` at END (43_decoder.md R177). -/
def execDigit74 (x : BitVec 1) (s : State) : Host.Outcome State Fault Refusal :=
  acceptSymbol .dec (0b0111010#7 ++ x) s

/-- `ZSH_7A`: the shorthand, five digits 0 at END (43_decoder.md R173). -/
def execZsh7A (s : State) : Host.Outcome State Fault Refusal :=
  acceptSymbol .dec 0x7A#8 s

/-- `BAD_00`: out of the alphabet, `InvalidInput` at END unless in a stripped marker (43_decoder.md R174). -/
def execBad00 (x : BitVec 3) (s : State) : Host.Outcome State Fault Refusal :=
  acceptSymbol .dec (0b00000#5 ++ x) s

/-- `BAD_08`: out of the alphabet, `InvalidInput` at END unless in a stripped marker (43_decoder.md R174). -/
def execBad08 (s : State) : Host.Outcome State Fault Refusal :=
  acceptSymbol .dec 0x08#8 s

/-- `BAD_0E`: out of the alphabet, `InvalidInput` at END unless in a stripped marker (43_decoder.md R174). -/
def execBad0E (x : BitVec 1) (s : State) : Host.Outcome State Fault Refusal :=
  acceptSymbol .dec (0b0000111#7 ++ x) s

/-- `BAD_10`: out of the alphabet, `InvalidInput` at END unless in a stripped marker (43_decoder.md R174). -/
def execBad10 (x : BitVec 4) (s : State) : Host.Outcome State Fault Refusal :=
  acceptSymbol .dec (0b0001#4 ++ x) s

/-- `BAD_76`: out of the alphabet, `InvalidInput` at END unless in a stripped marker (43_decoder.md R174). -/
def execBad76 (x : BitVec 1) (s : State) : Host.Outcome State Fault Refusal :=
  acceptSymbol .dec (0b0111011#7 ++ x) s

/-- `BAD_78`: out of the alphabet, `InvalidInput` at END unless in a stripped marker (43_decoder.md R174). -/
def execBad78 (x : BitVec 1) (s : State) : Host.Outcome State Fault Refusal :=
  acceptSymbol .dec (0b0111100#7 ++ x) s

/-- `BAD_7B`: out of the alphabet, `InvalidInput` at END unless in a stripped marker (43_decoder.md R174). -/
def execBad7B (s : State) : Host.Outcome State Fault Refusal :=
  acceptSymbol .dec 0x7B#8 s

/-- `BAD_7C`: out of the alphabet, `InvalidInput` at END unless in a stripped marker (43_decoder.md R174). -/
def execBad7C (x : BitVec 2) (s : State) : Host.Outcome State Fault Refusal :=
  acceptSymbol .dec (0b011111#6 ++ x) s

/-- `BAD_80`: out of the alphabet, `InvalidInput` at END unless in a stripped marker (43_decoder.md R174). -/
def execBad80 (x : BitVec 7) (s : State) : Host.Outcome State Fault Refusal :=
  acceptSymbol .dec (0b1#1 ++ x) s

end Sys2Proof.Machine
end

