-- ==== Sys2Proof/Machine/Dispatch.lean ====
section
/-! DEFINITION. The dispatch: one arm for each constructor of Instr, each a direct call of its meaning. -/

namespace Sys2Proof.Machine

def exec (i : Instr) (s : State) : Host.Outcome State Fault Refusal :=
  match i with
  | .encPush v => Sys2Proof.Machine.execEncPush v s
  | .encEnd data => Sys2Proof.Machine.execEncEnd data s
  | .decPush v => Sys2Proof.Machine.execDecPush v s
  | .decEnd data => Sys2Proof.Machine.execDecEnd data s
  | .encData v => Sys2Proof.Machine.execEncData v s
  | .encEndOut data => Sys2Proof.Machine.execEncEndOut data s
  | .decData v => Sys2Proof.Machine.execDecData v s
  | .decEndOut data => Sys2Proof.Machine.execDecEndOut data s
  | .reset u => Sys2Proof.Machine.execReset u s
  | .byte v => Sys2Proof.Machine.execByte v s
  | .ws09 => Sys2Proof.Machine.execWs09 s
  | .ws0A x => Sys2Proof.Machine.execWs0A x s
  | .ws0C x => Sys2Proof.Machine.execWs0C x s
  | .ws20 => Sys2Proof.Machine.execWs20 s
  | .digit21 => Sys2Proof.Machine.execDigit21 s
  | .digit22 x => Sys2Proof.Machine.execDigit22 x s
  | .digit24 x => Sys2Proof.Machine.execDigit24 x s
  | .digit28 x => Sys2Proof.Machine.execDigit28 x s
  | .digit30 x => Sys2Proof.Machine.execDigit30 x s
  | .digit40 x => Sys2Proof.Machine.execDigit40 x s
  | .digit60 x => Sys2Proof.Machine.execDigit60 x s
  | .digit70 x => Sys2Proof.Machine.execDigit70 x s
  | .digit74 x => Sys2Proof.Machine.execDigit74 x s
  | .zsh7A => Sys2Proof.Machine.execZsh7A s
  | .bad00 x => Sys2Proof.Machine.execBad00 x s
  | .bad08 => Sys2Proof.Machine.execBad08 s
  | .bad0E x => Sys2Proof.Machine.execBad0E x s
  | .bad10 x => Sys2Proof.Machine.execBad10 x s
  | .bad76 x => Sys2Proof.Machine.execBad76 x s
  | .bad78 x => Sys2Proof.Machine.execBad78 x s
  | .bad7B => Sys2Proof.Machine.execBad7B s
  | .bad7C x => Sys2Proof.Machine.execBad7C x s
  | .bad80 x => Sys2Proof.Machine.execBad80 x s

end Sys2Proof.Machine
end

