-- ==== Sys2Proof/Machine/Fetch.lean ====
section
/-! DEFINITION. From what the host drives to the word that is transferred (44_port_protocol.md R201), and
the drive a host makes to cause an instruction. -/

namespace Sys2Proof.Machine

/-- The word transferred when the host makes the drive `e`, and its lane; `none` where nothing is
transferred. At an edge with `rst` = 1 there is no beat (44_port_protocol.md R201, 60_exceptions.md
R235); an input beat needs `in_valid` and `in_ready`, an output beat `out_valid` and `out_ready`; the
output word is the one the unit presents (10_state.md R35). -/
def fetch (e : Drive) (s : State) : Option (Lane × Nat) :=
  match e with
  | .edge u p =>
    if p.rst then some (.rst u, 1)
    else if p.inValid && inReady (getUnit u s) then
      some (.beatIn u, (mkBeat p.inKind p.inData).toNat)
    else if outValid (getUnit u s) && p.outReady then
      some (.beatOut u, (mkBeat (outKind (getUnit u s)) (outData (getUnit u s))).toNat)
    else none
  | .byte v => if inReady (getUnit .enc s) then some (.byte, v.toNat) else none
  | .char code => if inReady (getUnit .dec s) then some (.char, code.toNat) else none

/-- The pins of a host that drives nothing. -/
def idlePins : Pins :=
  { rst := false, inValid := false, inKind := 0#1, inData := 0x00#8, outReady := false }

/-- The host offers the input beat `b`. -/
def offerBeat (u : UnitId) (b : Beat) : Drive :=
  .edge u { idlePins with inValid := true, inKind := beatKind b, inData := beatData b }

/-- The host is ready to take an output beat. -/
def takeBeat (u : UnitId) : Drive := .edge u { idlePins with outReady := true }

/-- The host asserts `rst`. -/
def assertRst (u : UnitId) : Drive := .edge u { idlePins with rst := true }

/-- The drive that makes a word be transferred on a lane. -/
def driveOf (l : Lane) (w : Nat) : Drive :=
  match l with
  | .beatIn u => offerBeat u (BitVec.ofNat 9 w)
  | .beatOut u => takeBeat u
  | .rst u => assertRst u
  | .byte => .byte (BitVec.ofNat 8 w)
  | .char => .char (BitVec.ofNat 8 w)

/-- Put a drive in front of everything the host will do. -/
def prependDrive (e : Drive) (s : State) : State := { s with script := e :: s.script }

/-- The state after the host's next drive has been taken off the script. -/
def dropDrive (s : State) : State := { s with script := s.script.drop 1 }

end Sys2Proof.Machine
end

