-- ==== Sys2Proof/Machine/Step.lean ====
section
/-! DEFINITION. One step: the host's next drive, the word it transfers, the instruction of that word, its
meaning (44_port_protocol.md R201, R207). -/

namespace Sys2Proof.Machine

/-- One step. With nothing to drive the machine keeps its state (60_exceptions.md R246); a drive that
transfers nothing is used up and changes nothing else (44_port_protocol.md R201, R209, assumption 5). -/
def step (s : State) : Host.Outcome State Fault Refusal :=
  match s.script with
  | [] => .next s
  | e :: _ =>
    match fetch e s with
    | none => .next (dropDrive s)
    | some (l, w) =>
      match decode l w with
      | .ok i => exec i (dropDrive s)
      | .error why => .refused (.undecodable why)

/-- `s` with the instruction of a table word as the very next thing the host drives, on `tableLane`
(assumptions 1 and 2). A word that is no instruction places nothing. -/
def State.withFetchWord (s : State) (nbits w : Nat) : State :=
  match decodeTableWord nbits w with
  | some _ => prependDrive (driveOf (tableLane nbits w) w) s
  | none => s

end Sys2Proof.Machine
end

