-- ==== Sys2Proof/Safety.lean ====
section
/-! DEFINITION. What a legal state is and the terms the claims use: buffers within their capacity, the
legal records of each phase, the part of the machine an instruction of one unit must leave alone, and
the drives and beats of a whole message (30_encoding.md R89). -/

namespace Sys2Proof.Machine

/-- A length within a capacity; every length is within an unbounded one (10_state.md R22). -/
def withinMax (max : Option Nat) (n : Nat) : Bool :=
  match max with
  | some m => decide (n ≤ m)
  | none => true

/-- The memory of the machine is well formed: each input buffer is within its capacity
(10_state.md R22, 20_memory.md R51). A buffer is a list, so equal buffers are equal data. -/
abbrev Memory.wf (s : State) : Prop :=
  withinMax s.cfg.encInMax s.enc.ibuf.length = true ∧
    withinMax s.cfg.decInMax s.dec.ibuf.length = true

/-- The fault record of a unit is all zero (10_state.md R28: "While `U.err = 0` both read 0"). -/
def noFaultRecord (x : UnitState) : Bool := x.err == errNone && x.errSym == 0x00#8 && x.errIdx == 0

/-- Which fault records a unit can hold (60_exceptions.md R230): overflow records the capacity; only DEC
records `InvalidInput`, and then a symbol of class BAD at an index within the capacity. -/
def faultRecordLegal (u : UnitId) (max : Option Nat) (x : UnitState) : Bool :=
  (x.err == errBufferOverflow && max == some x.errIdx) ||
    (u == .dec && x.err == errInvalidInput && symClass x.errSym == .bad && withinMax max x.errIdx)

/-- A legal record of unit `u` with capacity `max`, phase by phase (10_state.md R22, R23, R27, R28,
60_exceptions.md R236). -/
def unitLegal (u : UnitId) (max : Option Nat) (x : UnitState) : Bool :=
  match x.phase with
  | .load => noFaultRecord x && x.obuf == [] && withinMax max x.ibuf.length
  | .drain => noFaultRecord x && x.ibuf == []
  | .fault => x.ibuf == [] && x.obuf == [] && faultRecordLegal u max x

/-- The invariant: both units hold legal records. -/
abbrev LegalState (s : State) : Prop :=
  unitLegal .enc s.cfg.encInMax s.enc = true ∧ unitLegal .dec s.cfg.decInMax s.dec = true

/-- The bound on the length of an output buffer for an input of at most `m` symbols
(20_memory.md R51). -/
def outBound (u : UnitId) (m : Nat) : Nat :=
  match u with
  | .enc => m + (m + 3) / 4 + 4
  | .dec => 4 * m

/-- No output buffer is longer than its input capacity allows (20_memory.md R51). -/
def OutputBounded (s : State) : Prop :=
  (∀ m, s.cfg.encInMax = some m → s.enc.obuf.length ≤ outBound .enc m) ∧
    (∀ m, s.cfg.decInMax = some m → s.dec.obuf.length ≤ outBound .dec m)

/-- The unit an instruction acts on (the `unit` of its row in spec/opcode_table.json). -/
def unitOf : Instr → UnitId
  | .encPush _ | .encEnd _ | .encData _ | .encEndOut _ | .byte _ => .enc
  | .reset u => u
  | .decPush _ | .decEnd _ | .decData _ | .decEndOut _
  | .ws09 | .ws0A _ | .ws0C _ | .ws20
  | .digit21 | .digit22 _ | .digit24 _ | .digit28 _ | .digit30 _ | .digit40 _ | .digit60 _
  | .digit70 _ | .digit74 _ | .zsh7A
  | .bad00 _ | .bad08 | .bad0E _ | .bad10 _ | .bad76 _ | .bad78 _ | .bad7B | .bad7C _
  | .bad80 _ => .dec

/-- The other unit. -/
def otherUnit : UnitId → UnitId
  | .enc => .dec
  | .dec => .enc

/-- The beats the host has taken from a unit. -/
def takenFrom (u : UnitId) (s : State) : List Beat :=
  match u with
  | .enc => s.encTaken
  | .dec => s.decTaken

/-- `t` differs from `s` at most in the record of unit `u` and in what the host has taken from `u`
(10_state.md R20, R21). -/
def SameOutside (u : UnitId) (s t : State) : Prop :=
  t.cfg = s.cfg ∧ t.script = s.script ∧
    getUnit (otherUnit u) t = getUnit (otherUnit u) s ∧
    takenFrom (otherUnit u) t = takenFrom (otherUnit u) s

/-- The drives of `U< MSG x`: one data beat for each symbol, then the end beat (30_encoding.md R89). -/
def sendMsg (u : UnitId) (x : List Byte) : List Drive :=
  x.map (fun v => offerBeat u (dataBeat v)) ++ [offerBeat u endBeat]

/-- The drives with which the host takes an output message of `n` symbols and its end beat. -/
def takeMsg (u : UnitId) (n : Nat) : List Drive := List.replicate (n + 1) (takeBeat u)

/-- The beats of `U> MSG y`: one data beat for each symbol, then the end beat (30_encoding.md R89). -/
def msgBeats (y : List Byte) : List Beat := y.map dataBeat ++ [endBeat]

end Sys2Proof.Machine
end

