-- ==== Sys2Proof/Certificates/Slice0/Obligations.lean ====
section
/-! DEFINITION. The statements about the model that are given to the provers. -/

open Sys2Proof Sys2Proof.Machine

/-- Every bit of every operand of every row survives encoding and decoding (30_encoding.md R70, R90). -/
def Obligations.DecodeOfEncode : Prop :=
  ∀ i : Instr, i.WF → decode (encode i).1 (encode i).2 = .ok i

/-- The other direction of the round trip: each word of a lane has one meaning (30_encoding.md R70, R90). -/
def Obligations.EncodeOfDecode : Prop :=
  ∀ (l : Lane) (w : Nat) (i : Instr), decode l w = .ok i → encode i = (l, w) ∧ i.WF

/-- A sanity statement: a few words of the formats BEAT, PORT, BYTE and CHAR (30_encoding.md R80, R90). -/
def Obligations.DecodedWords : Prop :=
  decode (.beatIn .enc) 0b001101000 = .ok (.encPush 0x68#8) ∧
  decode (.beatIn .enc) 0b110101011 = .ok (.encEnd 0xAB#8) ∧
  decode (.beatIn .dec) 0b001111110 = .ok (.decPush 0x7E#8) ∧
  decode (.beatIn .dec) 0b100000000 = .ok (.decEnd 0x00#8) ∧
  decode (.beatOut .enc) 0b000111100 = .ok (.encData 0x3C#8) ∧
  decode (.beatOut .enc) 0b100000000 = .ok (.encEndOut 0x00#8) ∧
  decode (.beatOut .dec) 0b001101000 = .ok (.decData 0x68#8) ∧
  decode (.beatOut .dec) 0b100000000 = .ok (.decEndOut 0x00#8) ∧
  decode (.rst .enc) 0b1 = .ok (.reset .enc) ∧
  decode .byte 0b11111111 = .ok (.byte 0xFF#8) ∧
  decode .char 0b00001011 = .ok (.ws0A 0b1#1) ∧
  decode .char 0b01010101 = .ok (.digit40 0b10101#5) ∧
  decode .char 0b01111010 = .ok .zsh7A ∧
  decode .char 0b01111110 = .ok (.bad7C 0b10#2) ∧
  decode .char 0b10000101 = .ok (.bad80 0b0000101#7) ∧
  decode (.beatIn .enc) 0b1000000000 = .error .tooWide ∧
  decode (.rst .dec) 0b0 = .error .rstLow ∧
  decode (.beatOut .dec) 0b100000001 = .error .endOutData

/-- The CHAR rows cut the 256 codes without gap or overlap and agree with the class table (30_encoding.md R82, R90). -/
def Obligations.CharRowsPartitionTheCodes : Prop :=
  (∀ c : Byte, (charRows.filter (fun r => r.matches c)).length = 1 ∧
    (decodeChar c).bind rowClass = some (symClass c) ∧
    symClass c =
      (if (0x09 ≤ c.toNat ∧ c.toNat ≤ 0x0D) ∨ c.toNat = 0x20 then .ws
       else if 0x21 ≤ c.toNat ∧ c.toNat ≤ 0x75 then .digit
       else if c.toNat = 0x7A then .zsh
       else .bad)) ∧
  ((List.range 256).filter (fun n => symClass (BitVec.ofNat 8 n) == .ws)).length = 6 ∧
  ((List.range 256).filter (fun n => symClass (BitVec.ofNat 8 n) == .digit)).length = 85 ∧
  ((List.range 256).filter (fun n => symClass (BitVec.ofNat 8 n) == .zsh)).length = 1 ∧
  ((List.range 256).filter (fun n => symClass (BitVec.ofNat 8 n) == .bad)).length = 164

/-- The two operand forms are inverse on digits and digit characters (30_encoding.md R71, R81). -/
def Obligations.DigitCharacters : Prop :=
  (∀ d : Nat, d < 85 → (digitChar d).toNat = d + 33 ∧ symClass (digitChar d) = .digit ∧
    digitValue (digitChar d) = d) ∧
  (∀ c : Byte, symClass c = .digit → digitValue c + 33 = c.toNat ∧ digitValue c < 85 ∧
    digitChar (digitValue c) = c)

/-- What a step adds around exec: the drive is used up (44_port_protocol.md R201, R207; model's choice: assumptions 1, 5). -/
def Obligations.StepRunsTheDecodedInstruction : Prop :=
  (∀ (s : State) (e : Drive) (rest : List Drive) (l : Lane) (w : Nat) (i : Instr),
    s.script = e :: rest → fetch e s = some (l, w) → decode l w = .ok i →
    step s = exec i { s with script := rest }) ∧
  (∀ (s : State) (e : Drive) (rest : List Drive),
    s.script = e :: rest → fetch e s = none → step s = .next { s with script := rest }) ∧
  (∀ s : State, s.script = [] → step s = .next s)

/-- The handshake of 44_port_protocol.md R201; reset wins over a beat (60_exceptions.md R235). -/
def Obligations.HandshakeOfAnEdge : Prop :=
  ∀ (u : UnitId) (p : Pins) (s : State),
    (p.rst = true → fetch (.edge u p) s = some (.rst u, 1)) ∧
    (p.rst = false → p.inValid = true → (getUnit u s).phase = .load →
      fetch (.edge u p) s = some (.beatIn u, (p.inKind ++ p.inData).toNat)) ∧
    (p.rst = false → p.outReady = true → (getUnit u s).phase = .drain →
      fetch (.edge u p) s =
        some (.beatOut u, (outKind (getUnit u s) ++ outData (getUnit u s)).toNat)) ∧
    (p.rst = false → (p.inValid = false ∨ (getUnit u s).phase ≠ .load) →
      (p.outReady = false ∨ (getUnit u s).phase ≠ .drain) → fetch (.edge u p) s = none)

/-- How an instruction of each input lane comes to run (44_port_protocol.md R201; assumptions 1 and 2). -/
def Obligations.OfferedInstructionRuns : Prop :=
  ∀ (i : Instr) (s : State), i.WF → (∀ u, (encode i).1 ≠ .beatOut u) →
    step (prependDrive (driveOf (encode i).1 (encode i).2) s) = exec i s

/-- The output side of the step (44_port_protocol.md R201, R205, R206). -/
def Obligations.TakenBeatRuns : Prop :=
  (∀ (s : State) (v : Byte) (rest : List Byte), s.enc.phase = .drain → s.enc.obuf = v :: rest →
    step (prependDrive (takeBeat .enc) s) = exec (.encData v) s) ∧
  (∀ s : State, s.enc.phase = .drain → s.enc.obuf = [] →
    step (prependDrive (takeBeat .enc) s) = exec (.encEndOut 0x00#8) s) ∧
  (∀ (s : State) (v : Byte) (rest : List Byte), s.dec.phase = .drain → s.dec.obuf = v :: rest →
    step (prependDrive (takeBeat .dec) s) = exec (.decData v) s) ∧
  (∀ s : State, s.dec.phase = .drain → s.dec.obuf = [] →
    step (prependDrive (takeBeat .dec) s) = exec (.decEndOut 0x00#8) s)

/-- No instruction that could be executed is refused, and no fetched word is undecodable (60_exceptions.md R236, R247). -/
def Obligations.StepNeverStops : Prop :=
  ∀ s : State, ∃ t : State, step s = .next t

/-- PUSH of both units: the accepted beat and the overflow (44_port_protocol.md R202, 60_exceptions.md R232). -/
def Obligations.PushMeaning : Prop :=
  (∀ v : Byte, decode (.beatIn .enc) (0#1 ++ v).toNat = .ok (.encPush v) ∧
    decode (.beatIn .dec) (0#1 ++ v).toNat = .ok (.decPush v)) ∧
  (∀ (s : State) (v : Byte), s.enc.phase = .load → s.cfg.encInMax ≠ some s.enc.ibuf.length →
    exec (.encPush v) s = .next { s with enc := { s.enc with ibuf := s.enc.ibuf ++ [v] } }) ∧
  (∀ (s : State) (v : Byte), s.dec.phase = .load → s.cfg.decInMax ≠ some s.dec.ibuf.length →
    exec (.decPush v) s = .next { s with dec := { s.dec with ibuf := s.dec.ibuf ++ [v] } }) ∧
  (∀ (s : State) (v : Byte) (m : Nat), s.enc.phase = .load → s.cfg.encInMax = some m →
    s.enc.ibuf.length = m →
    exec (.encPush v) s = .next { s with enc :=
      { phase := .fault, ibuf := [], obuf := [], err := 2#2, errSym := v, errIdx := m } }) ∧
  (∀ (s : State) (v : Byte) (m : Nat), s.dec.phase = .load → s.cfg.decInMax = some m →
    s.dec.ibuf.length = m →
    exec (.decPush v) s = .next { s with dec :=
      { phase := .fault, ibuf := [], obuf := [], err := 2#2, errSym := v, errIdx := m } })

/-- END on ENC (44_port_protocol.md R203). -/
def Obligations.EncEndMeaning : Prop :=
  (∀ d : Byte, decode (.beatIn .enc) (1#1 ++ d).toNat = .ok (.encEnd d)) ∧
  (∀ (s : State) (d : Byte), s.enc.phase = .load →
    exec (.encEnd d) s = .next { s with enc :=
      { s.enc with obuf := encodeMsg s.enc.ibuf, ibuf := [], phase := .drain } }) ∧
  (∀ (s : State) (d : Byte), s.enc.phase ≠ .load → exec (.encEnd d) s = .next s) ∧
  (∀ b : List Byte, 4 ≤ (encodeMsg b).length) ∧
  encodeMsg [] = [0x3C#8, 0x7E#8, 0x7E#8, 0x3E#8] ∧
  encodeMsg [0x68#8] = [0x3C#8, 0x7E#8, 0x42#8, 0x45#8, 0x7E#8, 0x3E#8]

/-- END on DEC (44_port_protocol.md R204). -/
def Obligations.DecEndMeaning : Prop :=
  (∀ d : Byte, decode (.beatIn .dec) (1#1 ++ d).toNat = .ok (.decEnd d)) ∧
  (∀ (s : State) (d : Byte) (b : List Byte), s.dec.phase = .load →
    decodeMsg s.dec.ibuf = .bytes b →
    exec (.decEnd d) s = .next { s with dec :=
      { s.dec with obuf := b, ibuf := [], phase := .drain } }) ∧
  (∀ (s : State) (d : Byte) (sym : Byte) (idx : Nat), s.dec.phase = .load →
    decodeMsg s.dec.ibuf = .invalidInput sym idx →
    exec (.decEnd d) s = .next { s with dec :=
      { phase := .fault, ibuf := [], obuf := [], err := 1#2, errSym := sym, errIdx := idx } }) ∧
  (∀ x : List Byte, (∃ sym idx, decodeMsg x = .invalidInput sym idx) ↔
    ∃ c ∈ (stripm x).1, symClass c = .bad) ∧
  (∀ (s : State) (d : Byte), s.dec.phase ≠ .load → exec (.decEnd d) s = .next s) ∧
  decodeMsg [] = .bytes [] ∧
  decodeMsg [0x3C#8, 0x7E#8, 0x7E#8, 0x3E#8] = .bytes [] ∧
  decodeMsg [0x3C#8, 0x7E#8] = .bytes [] ∧ decodeMsg [0x7E#8, 0x3E#8] = .bytes [] ∧
  (∀ x : List Byte, (∀ c ∈ x, symClass c = .ws) → decodeMsg x = .bytes []) ∧
  decodeMsg [0x3C#8, 0x7E#8, 0x42#8, 0x45#8, 0x7E#8, 0x3E#8] = .bytes [0x68#8]

/-- POP with data (44_port_protocol.md R205); the list of beats the host holds is the model's own (assumption 7). -/
def Obligations.PopDataMeaning : Prop :=
  (∀ (s : State) (v : Byte) (rest : List Byte), s.enc.phase = .drain → s.enc.obuf = v :: rest →
    decode (.beatOut .enc) (outKind s.enc ++ outData s.enc).toNat = .ok (.encData v) ∧
    exec (.encData v) s = .next { s with
      enc := { s.enc with obuf := rest }, encTaken := s.encTaken ++ [0#1 ++ v] }) ∧
  (∀ (s : State) (v : Byte) (rest : List Byte), s.dec.phase = .drain → s.dec.obuf = v :: rest →
    decode (.beatOut .dec) (outKind s.dec ++ outData s.dec).toNat = .ok (.decData v) ∧
    exec (.decData v) s = .next { s with
      dec := { s.dec with obuf := rest }, decTaken := s.decTaken ++ [0#1 ++ v] })

/-- POP at the end (44_port_protocol.md R206, 10_state.md R34); the list of beats the host holds is the model's own (assumption 7). -/
def Obligations.PopEndMeaning : Prop :=
  (∀ s : State, s.enc.phase = .drain → s.enc.obuf = [] →
    decode (.beatOut .enc) (outKind s.enc ++ outData s.enc).toNat = .ok (.encEndOut 0x00#8) ∧
    exec (.encEndOut 0x00#8) s = .next { s with
      enc := { s.enc with phase := .load }, encTaken := s.encTaken ++ [0x100#9] } ∧
    (LegalState s → { s.enc with phase := .load } = UnitState.reset)) ∧
  (∀ s : State, s.dec.phase = .drain → s.dec.obuf = [] →
    decode (.beatOut .dec) (outKind s.dec ++ outData s.dec).toNat = .ok (.decEndOut 0x00#8) ∧
    exec (.decEndOut 0x00#8) s = .next { s with
      dec := { s.dec with phase := .load }, decTaken := s.decTaken ++ [0x100#9] } ∧
    (LegalState s → { s.dec with phase := .load } = UnitState.reset))

/-- RESET (44_port_protocol.md R215). -/
def Obligations.ResetMeaning : Prop :=
  (∀ u : UnitId, decode (.rst u) 1 = .ok (.reset u)) ∧
  (∀ s : State, exec (.reset .enc) s = .next { s with enc :=
    { phase := .load, ibuf := [], obuf := [], err := 0#2, errSym := 0x00#8, errIdx := 0 } }) ∧
  (∀ s : State, exec (.reset .dec) s = .next { s with dec :=
    { phase := .load, ibuf := [], obuf := [], err := 0#2, errSym := 0x00#8, errIdx := 0 } })

/-- The reset values of 10_state.md R33. -/
def Obligations.ResetState : Prop :=
  ∀ c : Config, (∀ u : UnitId, (getUnit u (State.resetWith c)).phase = .load ∧
    (getUnit u (State.resetWith c)).ibuf = [] ∧ (getUnit u (State.resetWith c)).obuf = [] ∧
    (getUnit u (State.resetWith c)).err = 0#2 ∧ (getUnit u (State.resetWith c)).errSym = 0x00#8 ∧
    (getUnit u (State.resetWith c)).errIdx = 0) ∧
  State.reset.enc = (State.resetWith c).enc ∧ State.reset.dec = (State.resetWith c).dec

/-- The BYTE row (30_encoding.md R84; model's reading: assumption 3). -/
def Obligations.ByteRowMeaning : Prop :=
  ∀ (s : State) (v : Byte), s.enc.phase = .load → s.cfg.encInMax ≠ some s.enc.ibuf.length →
    exec (.byte v) s = .next { s with enc := { s.enc with ibuf := s.enc.ibuf ++ [v] } }

/-- The CHAR rows of class WS (44_port_protocol.md R202; model's reading: assumption 3). -/
def Obligations.WhitespaceRowsMeaning : Prop :=
  ∀ s : State, s.dec.phase = .load → s.cfg.decInMax ≠ some s.dec.ibuf.length →
    (exec .ws09 s =
      .next { s with dec := { s.dec with ibuf := s.dec.ibuf ++ [0x09#8] } }) ∧
    (∀ x : BitVec 1, exec (.ws0A x) s =
      .next { s with dec := { s.dec with ibuf := s.dec.ibuf ++ [(0b0000101#7 ++ x : Byte)] } }) ∧
    (∀ x : BitVec 1, exec (.ws0C x) s =
      .next { s with dec := { s.dec with ibuf := s.dec.ibuf ++ [(0b0000110#7 ++ x : Byte)] } }) ∧
    (exec .ws20 s =
      .next { s with dec := { s.dec with ibuf := s.dec.ibuf ++ [0x20#8] } })

/-- The CHAR rows of class DIGIT (44_port_protocol.md R202; model's reading: assumption 3). -/
def Obligations.DigitRowsMeaning : Prop :=
  ∀ s : State, s.dec.phase = .load → s.cfg.decInMax ≠ some s.dec.ibuf.length →
    (exec .digit21 s =
      .next { s with dec := { s.dec with ibuf := s.dec.ibuf ++ [0x21#8] } }) ∧
    (∀ x : BitVec 1, exec (.digit22 x) s =
      .next { s with dec := { s.dec with ibuf := s.dec.ibuf ++ [(0b0010001#7 ++ x : Byte)] } }) ∧
    (∀ x : BitVec 2, exec (.digit24 x) s =
      .next { s with dec := { s.dec with ibuf := s.dec.ibuf ++ [(0b001001#6 ++ x : Byte)] } }) ∧
    (∀ x : BitVec 3, exec (.digit28 x) s =
      .next { s with dec := { s.dec with ibuf := s.dec.ibuf ++ [(0b00101#5 ++ x : Byte)] } }) ∧
    (∀ x : BitVec 4, exec (.digit30 x) s =
      .next { s with dec := { s.dec with ibuf := s.dec.ibuf ++ [(0b0011#4 ++ x : Byte)] } }) ∧
    (∀ x : BitVec 5, exec (.digit40 x) s =
      .next { s with dec := { s.dec with ibuf := s.dec.ibuf ++ [(0b010#3 ++ x : Byte)] } }) ∧
    (∀ x : BitVec 4, exec (.digit60 x) s =
      .next { s with dec := { s.dec with ibuf := s.dec.ibuf ++ [(0b0110#4 ++ x : Byte)] } }) ∧
    (∀ x : BitVec 2, exec (.digit70 x) s =
      .next { s with dec := { s.dec with ibuf := s.dec.ibuf ++ [(0b011100#6 ++ x : Byte)] } }) ∧
    (∀ x : BitVec 1, exec (.digit74 x) s =
      .next { s with dec := { s.dec with ibuf := s.dec.ibuf ++ [(0b0111010#7 ++ x : Byte)] } })

/-- The CHAR rows of class ZSH (44_port_protocol.md R202; model's reading: assumption 3). -/
def Obligations.ShorthandRowMeaning : Prop :=
  ∀ s : State, s.dec.phase = .load → s.cfg.decInMax ≠ some s.dec.ibuf.length →
    (exec .zsh7A s =
      .next { s with dec := { s.dec with ibuf := s.dec.ibuf ++ [0x7A#8] } })

/-- The CHAR rows of class BAD (44_port_protocol.md R202; model's reading: assumption 3). -/
def Obligations.BadRowsMeaning : Prop :=
  ∀ s : State, s.dec.phase = .load → s.cfg.decInMax ≠ some s.dec.ibuf.length →
    (∀ x : BitVec 3, exec (.bad00 x) s =
      .next { s with dec := { s.dec with ibuf := s.dec.ibuf ++ [(0b00000#5 ++ x : Byte)] } }) ∧
    (exec .bad08 s =
      .next { s with dec := { s.dec with ibuf := s.dec.ibuf ++ [0x08#8] } }) ∧
    (∀ x : BitVec 1, exec (.bad0E x) s =
      .next { s with dec := { s.dec with ibuf := s.dec.ibuf ++ [(0b0000111#7 ++ x : Byte)] } }) ∧
    (∀ x : BitVec 4, exec (.bad10 x) s =
      .next { s with dec := { s.dec with ibuf := s.dec.ibuf ++ [(0b0001#4 ++ x : Byte)] } }) ∧
    (∀ x : BitVec 1, exec (.bad76 x) s =
      .next { s with dec := { s.dec with ibuf := s.dec.ibuf ++ [(0b0111011#7 ++ x : Byte)] } }) ∧
    (∀ x : BitVec 1, exec (.bad78 x) s =
      .next { s with dec := { s.dec with ibuf := s.dec.ibuf ++ [(0b0111100#7 ++ x : Byte)] } }) ∧
    (exec .bad7B s =
      .next { s with dec := { s.dec with ibuf := s.dec.ibuf ++ [0x7B#8] } }) ∧
    (∀ x : BitVec 2, exec (.bad7C x) s =
      .next { s with dec := { s.dec with ibuf := s.dec.ibuf ++ [(0b011111#6 ++ x : Byte)] } }) ∧
    (∀ x : BitVec 7, exec (.bad80 x) s =
      .next { s with dec := { s.dec with ibuf := s.dec.ibuf ++ [(0b1#1 ++ x : Byte)] } })

/-- The symbol rows and the beats that carry them (30_encoding.md R70; model's reading: assumption 3). -/
def Obligations.SymbolRowsArePushes : Prop :=
  (∀ (v : Byte) (s : State), exec (.byte v) s = exec (.encPush v) s) ∧
  (∀ (i : Instr) (c : Byte) (s : State), charCode i = some c → exec i s = exec (.decPush c) s) ∧
  (∀ (i : Instr) (c : Byte), decodeChar c = some i → charCode i = some c)

/-- The class effects of 30_encoding.md R82 seen at the ports. -/
def Obligations.OneSymbolMessage : Prop :=
  ∀ (s : State) (c d : Byte), s.dec.phase = .load → s.dec.ibuf = [c] →
    (symClass c = .ws ∨ symClass c = .digit →
      exec (.decEnd d) s = .next { s with dec :=
        { s.dec with obuf := [], ibuf := [], phase := .drain } }) ∧
    (symClass c = .zsh →
      exec (.decEnd d) s = .next { s with dec :=
        { s.dec with obuf := [0x00#8, 0x00#8, 0x00#8, 0x00#8], ibuf := [], phase := .drain } }) ∧
    (symClass c = .bad →
      exec (.decEnd d) s = .next { s with dec :=
        { phase := .fault, ibuf := [], obuf := [], err := 1#2, errSym := c, errIdx := 0 } })

/-- The waits of 44_port_protocol.md R209 (first clause); the last three clauses, on output
instructions that are no event of R207, are the model's choice (assumption 6). -/
def Obligations.BeatNotAccepted : Prop :=
  (∀ (i : Instr) (s : State),
    (encode i).1 = .beatIn (unitOf i) ∨ (encode i).1 = .byte ∨ (encode i).1 = .char →
    (getUnit (unitOf i) s).phase ≠ .load → exec i s = .next s) ∧
  (∀ (i : Instr) (s : State), (encode i).1 = .beatOut (unitOf i) →
    (getUnit (unitOf i) s).phase ≠ .drain → exec i s = .next s) ∧
  (∀ (s : State) (b : Byte),
    (¬ (outValid s.enc = true ∧ outKind s.enc = 0#1 ∧ outData s.enc = b) →
      exec (.encData b) s = .next s) ∧
    (¬ (outValid s.enc = true ∧ outKind s.enc = 1#1 ∧ outData s.enc = b) →
      exec (.encEndOut b) s = .next s)) ∧
  (∀ (s : State) (b : Byte),
    (¬ (outValid s.dec = true ∧ outKind s.dec = 0#1 ∧ outData s.dec = b) →
      exec (.decData b) s = .next s) ∧
    (¬ (outValid s.dec = true ∧ outKind s.dec = 1#1 ∧ outData s.dec = b) →
      exec (.decEndOut b) s = .next s))

/-- The signals of 10_state.md R35. -/
def Obligations.SignalsOfTheState : Prop :=
  ∀ x : UnitState,
    (inReady x = true ↔ x.phase = .load) ∧ (outValid x = true ↔ x.phase = .drain) ∧
    (faultOut x = true ↔ x.phase = .fault) ∧
    (outKind x = if x.phase = .drain ∧ x.obuf.length = 0 then 1#1 else 0#1) ∧
    (∀ (v : Byte) (rest : List Byte), x.phase = .drain → x.obuf = v :: rest → outData x = v) ∧
    (¬ (x.phase = .drain ∧ 0 < x.obuf.length) → outData x = 0x00#8) ∧
    errOut x = x.err ∧ errSymOut x = x.errSym ∧ errIdxOut x = x.errIdx

/-- The invariant of the machine (10_state.md R22, R23, R27, R28, 60_exceptions.md R230, R236). -/
def Obligations.StepKeepsLegalStates : Prop :=
  ∀ s t : State, LegalState s → step s = .next t → LegalState t

/-- The invariants hold at reset (10_state.md R33). -/
def Obligations.ResetIsLegal : Prop :=
  ∀ c : Config, LegalState (State.resetWith c) ∧ OutputBounded (State.resetWith c)

/-- The fault indication of 10_state.md R27, R28 under the invariant of StepKeepsLegalStates. -/
def Obligations.FaultFlagAgrees : Prop :=
  ∀ (s : State) (u : UnitId), LegalState s →
    ((getUnit u s).phase = .fault ↔ (getUnit u s).err ≠ 0#2) ∧ (getUnit u s).err ≠ 3#2 ∧
    ((getUnit u s).err = 0#2 → (getUnit u s).errSym = 0x00#8 ∧ (getUnit u s).errIdx = 0) ∧
    s.enc.err ≠ 1#2

/-- The capacity of the output buffers follows from that of the input buffers (20_memory.md R51). -/
def Obligations.OutputBufferNeverOverflows : Prop :=
  ∀ s t : State, LegalState s → OutputBounded s → step s = .next t → OutputBounded t

/-- The parameters are constants of an instance (10_state.md R32); the list of beats is the model's own (assumption 7). -/
def Obligations.ConfigurationIsConstant : Prop :=
  ∀ s t : State, step s = .next t → t.cfg = s.cfg ∧ s.encTaken <+: t.encTaken ∧
    s.decTaken <+: t.decTaken ∧
    t.encTaken.length + t.decTaken.length ≤ s.encTaken.length + s.decTaken.length + 1

/-- The frame between the units (10_state.md R20, R21). -/
def Obligations.OtherUnitUntouched : Prop :=
  ∀ (i : Instr) (s t : State), exec i s = .next t → SameOutside (unitOf i) s t

/-- The frame of the input instructions; PUSH stores at index len(ibuf) (44_port_protocol.md R202, R217). -/
def Obligations.InputInstructionsFrame : Prop :=
  (∀ (i : Instr) (s t : State),
    (encode i).1 = .beatIn (unitOf i) ∨ (encode i).1 = .byte ∨ (encode i).1 = .char →
    exec i s = .next t → takenFrom (unitOf i) t = takenFrom (unitOf i) s ∧
    ((getUnit (unitOf i) t).phase ≠ .fault →
      (getUnit (unitOf i) t).err = (getUnit (unitOf i) s).err ∧
      (getUnit (unitOf i) t).errSym = (getUnit (unitOf i) s).errSym ∧
      (getUnit (unitOf i) t).errIdx = (getUnit (unitOf i) s).errIdx)) ∧
  (∀ (i : Instr) (s t : State),
    ((∃ v, i = .encPush v) ∨ (∃ v, i = .decPush v) ∨ (encode i).1 = .byte ∨
      (encode i).1 = .char) →
    exec i s = .next t → (getUnit (unitOf i) t).phase ≠ .fault →
    (getUnit (unitOf i) t).phase = (getUnit (unitOf i) s).phase ∧
    (getUnit (unitOf i) t).obuf = (getUnit (unitOf i) s).obuf ∧
    ∀ a : Nat, a ≠ (getUnit (unitOf i) s).ibuf.length →
      (getUnit (unitOf i) t).ibuf[a]? = (getUnit (unitOf i) s).ibuf[a]?)

/-- The frame of the output instructions (44_port_protocol.md R205, R206); the list of beats is the model's own (assumption 7). -/
def Obligations.OutputInstructionsFrame : Prop :=
  ∀ (i : Instr) (s t : State), (encode i).1 = .beatOut (unitOf i) → exec i s = .next t →
    (getUnit (unitOf i) t).ibuf = (getUnit (unitOf i) s).ibuf ∧
    (getUnit (unitOf i) t).err = (getUnit (unitOf i) s).err ∧
    (getUnit (unitOf i) t).errSym = (getUnit (unitOf i) s).errSym ∧
    (getUnit (unitOf i) t).errIdx = (getUnit (unitOf i) s).errIdx ∧
    ((getUnit (unitOf i) t).obuf = (getUnit (unitOf i) s).obuf ∨
      ∃ v, (getUnit (unitOf i) s).obuf = v :: (getUnit (unitOf i) t).obuf ∧
        takenFrom (unitOf i) t = takenFrom (unitOf i) s ++ [0#1 ++ v]) ∧
    ((getUnit (unitOf i) t).phase = (getUnit (unitOf i) s).phase ∨
      ((getUnit (unitOf i) s).phase = .drain ∧ (getUnit (unitOf i) t).phase = .load))

/-- Any interleaving of the two units gives each the result it would have had alone (20_memory.md R62 (d)). -/
def Obligations.UnitsCommute : Prop :=
  ∀ (i j : Instr) (s : State), unitOf i = .enc → unitOf j = .dec →
    ∃ a b c : State, exec i s = .next a ∧ exec j a = .next c ∧
      exec j s = .next b ∧ exec i b = .next c

/-- There is no return from a fault but reset (60_exceptions.md R238). -/
def Obligations.FaultIsSticky : Prop :=
  (∀ (u : UnitId) (i : Instr) (s t : State), (getUnit u s).phase = .fault → i ≠ .reset u →
    exec i s = .next t → getUnit u t = getUnit u s ∧ takenFrom u t = takenFrom u s) ∧
  (∀ (u : UnitId) (s t : State), (getUnit u s).phase = .fault →
    (∀ p rest, s.script = .edge u p :: rest → p.rst = false) →
    step s = .next t → getUnit u t = getUnit u s ∧ takenFrom u t = takenFrom u s) ∧
  (∀ (u : UnitId) (s : State), (getUnit u s).phase = .fault →
    inReady (getUnit u s) = false ∧ outValid (getUnit u s) = false ∧
    ∃ t, exec (.reset u) s = .next t ∧ (getUnit u t).phase = .load)

/-- The transitions of 44_port_protocol.md R216. -/
def Obligations.PhaseChanges : Prop :=
  ∀ (i : Instr) (s t : State), exec i s = .next t →
    (getUnit (unitOf i) t).phase ≠ (getUnit (unitOf i) s).phase →
    ((getUnit (unitOf i) s).phase = .load ∧ (getUnit (unitOf i) t).phase = .drain ∧
      ((∃ d, i = .encEnd d) ∨ (∃ d, i = .decEnd d))) ∨
    ((getUnit (unitOf i) s).phase = .load ∧ (getUnit (unitOf i) t).phase = .fault ∧
      ((∃ v, i = .encPush v) ∨ (∃ v, i = .decPush v) ∨ (encode i).1 = .byte ∨
        (encode i).1 = .char ∨ (∃ d, i = .decEnd d))) ∨
    ((getUnit (unitOf i) s).phase = .drain ∧ (getUnit (unitOf i) t).phase = .load ∧
      (getUnit (unitOf i) s).obuf = [] ∧
      (i = .encEndOut 0x00#8 ∨ i = .decEndOut 0x00#8)) ∨
    ((getUnit (unitOf i) t).phase = .load ∧ i = .reset (unitOf i))

/-- Fault entry (60_exceptions.md R236). -/
def Obligations.FaultEntry : Prop :=
  ∀ (i : Instr) (s t : State), exec i s = .next t →
    (getUnit (unitOf i) s).phase ≠ .fault → (getUnit (unitOf i) t).phase = .fault →
    (getUnit (unitOf i) t).ibuf = [] ∧ (getUnit (unitOf i) t).obuf = [] ∧
    takenFrom (unitOf i) t = takenFrom (unitOf i) s ∧ SameOutside (unitOf i) s t ∧
    (((getUnit (unitOf i) t).err = 2#2 ∧
        inMax (unitOf i) s = some (getUnit (unitOf i) t).errIdx ∧
        (getUnit (unitOf i) s).ibuf.length = (getUnit (unitOf i) t).errIdx ∧
        (i = .encPush (getUnit (unitOf i) t).errSym ∨ i = .decPush (getUnit (unitOf i) t).errSym ∨
          i = .byte (getUnit (unitOf i) t).errSym ∨
          charCode i = some (getUnit (unitOf i) t).errSym)) ∨
      ((getUnit (unitOf i) t).err = 1#2 ∧ (∃ d, i = .decEnd d) ∧
        decodeMsg s.dec.ibuf =
          .invalidInput (getUnit (unitOf i) t).errSym (getUnit (unitOf i) t).errIdx))

/-- The primitive D2I (40_base_converter.md R100). -/
def Obligations.DigitsToInteger : Prop :=
  (∀ r : Nat, d2i r [] = 0) ∧
  (∀ (r d : Nat) (ds : List Nat), d2i r (ds ++ [d]) = d2i r ds * r + d) ∧
  (∀ (r d : Nat) (ds : List Nat), d2i r (d :: ds) = d * r ^ ds.length + d2i r ds) ∧
  (∀ r n : Nat, d2i r (List.replicate n 0) = 0) ∧
  (∀ r n : Nat, 0 < r → d2i r (List.replicate n (r - 1)) = r ^ n - 1) ∧
  d2i 256 [0x68, 0x65, 0x6C, 0x6C] = 1751477356 ∧ d2i 85 [33, 46, 84, 0, 81] = 1751477356 ∧
  (∀ (g : List Byte), ∀ d ∈ g.map BitVec.toNat, d < 256) ∧
  (∀ (t : List Byte) (a : Nat), check t a = none →
    ∀ d ∈ (zexpand (stripw t)).map digitValue, d < 85)

/-- The primitive I2D and its silent truncation (40_base_converter.md R101, R102). -/
def Obligations.IntegerToDigits : Prop :=
  ∀ r w v : Nat, 0 < r →
    (i2d r w v).length = w ∧ (∀ d ∈ i2d r w v, d < r) ∧
    (∀ i : Nat, i < w → (i2d r w v)[i]? = some (v / r ^ (w - 1 - i) % r)) ∧
    i2d r w v = i2d r w (v % r ^ w)

/-- The inverse laws (40_base_converter.md R104). -/
def Obligations.BaseConverterInverse : Prop :=
  (∀ (r : Nat) (ds : List Nat), 2 ≤ r → (∀ d ∈ ds, d < r) → i2d r ds.length (d2i r ds) = ds) ∧
  (∀ r w v : Nat, 2 ≤ r → d2i r (i2d r w v) = v % r ^ w) ∧
  (∀ r w v : Nat, 2 ≤ r → v < r ^ w → d2i r (i2d r w v) = v)

/-- Ranges and widths (40_base_converter.md R103). -/
def Obligations.AccumulatorRanges : Prop :=
  (∀ g : List Byte, g.length = 4 → d2i 256 (g.map BitVec.toNat) < 2 ^ 32) ∧
  (∀ ds : List Nat, ds.length = 5 → (∀ d ∈ ds, d < 85) → d2i 85 ds < 85 ^ 5) ∧
  (2 ^ 32 < 85 ^ 5 ∧ 85 ^ 5 < 2 ^ 33) ∧
  (∀ (r k : Nat) (ds : List Nat), 0 < r → d2i r (ds.take k) ≤ d2i r ds)

/-- The pad count (41_grouping_padding.md R120). -/
def Obligations.PadCountCompletesTheGroup : Prop :=
  ∀ w n : Nat, 0 < w → padCount w n < w ∧ (n + padCount w n) % w = 0 ∧
    ∀ k : Nat, k < padCount w n → (n + k) % w ≠ 0

/-- Grouping and trimming (41_grouping_padding.md R121 to R125). -/
def Obligations.SplitAndTrim : Prop :=
  (∀ (w : Nat) (s : List Byte) (v : Byte), 0 < w →
    (split w (pad s (padCount w s.length) v)).length =
      (s.length + padCount w s.length) / w ∧
    (∀ g ∈ split w (pad s (padCount w s.length) v), g.length = w) ∧
    (split w (pad s (padCount w s.length) v)).flatten = pad s (padCount w s.length) v) ∧
  (∀ (w k : Nat) (s : List Byte), 0 < w → s.length % w = 0 → k < s.length / w →
    (split w s)[k]? = some ((s.drop (w * k)).take w)) ∧
  (∀ s : List Byte, trim s 0 = s) ∧
  (∀ (s : List Byte) (k : Nat) (v : Byte), trim (pad s k v) k = s)

/-- One byte group to one character group (42_encoder.md R143). -/
def Obligations.EncodeGroup : Prop :=
  ∀ b0 b1 b2 b3 : Byte, ∃ c0 c1 c2 c3 c4 : Byte, encGrp [b0, b1, b2, b3] = [c0, c1, c2, c3, c4] ∧
    c0.toNat = (b0.toNat * 2 ^ 24 + b1.toNat * 2 ^ 16 + b2.toNat * 2 ^ 8 + b3.toNat)
      / 85 ^ 4 % 85 + 33 ∧
    c1.toNat = (b0.toNat * 2 ^ 24 + b1.toNat * 2 ^ 16 + b2.toNat * 2 ^ 8 + b3.toNat)
      / 85 ^ 3 % 85 + 33 ∧
    c2.toNat = (b0.toNat * 2 ^ 24 + b1.toNat * 2 ^ 16 + b2.toNat * 2 ^ 8 + b3.toNat)
      / 85 ^ 2 % 85 + 33 ∧
    c3.toNat = (b0.toNat * 2 ^ 24 + b1.toNat * 2 ^ 16 + b2.toNat * 2 ^ 8 + b3.toNat)
      / 85 % 85 + 33 ∧
    c4.toNat = (b0.toNat * 2 ^ 24 + b1.toNat * 2 ^ 16 + b2.toNat * 2 ^ 8 + b3.toNat)
      % 85 + 33 ∧
    (∀ c ∈ [c0, c1, c2, c3, c4], 0x21 ≤ c.toNat ∧ c.toNat ≤ 0x75) ∧ c0.toNat ≤ 0x73

/-- One character group to one byte group (43_decoder.md R177, R181). -/
def Obligations.DecodeGroup : Prop :=
  ∀ c0 c1 c2 c3 c4 : Byte, (∀ c ∈ [c0, c1, c2, c3, c4], symClass c = .digit) →
    ∀ n : Nat, n = (c0.toNat - 33) * 85 ^ 4 + (c1.toNat - 33) * 85 ^ 3 +
      (c2.toNat - 33) * 85 ^ 2 + (c3.toNat - 33) * 85 + (c4.toNat - 33) →
    ∃ b0 b1 b2 b3 : Byte, decGrp [c0, c1, c2, c3, c4] = [b0, b1, b2, b3] ∧
      b0.toNat = n / 256 ^ 3 % 256 ∧ b1.toNat = n / 256 ^ 2 % 256 ∧
      b2.toNat = n / 256 % 256 ∧ b3.toNat = n % 256 ∧
      b0.toNat * 2 ^ 24 + b1.toNat * 2 ^ 16 + b2.toNat * 2 ^ 8 + b3.toNat = n % 2 ^ 32

/-- One-to-one and not onto (40_base_converter.md R104). -/
def Obligations.GroupRoundTrip : Prop :=
  (∀ g : List Byte, g.length = 4 → decGrp (encGrp g) = g) ∧
  (∀ g h : List Byte, g.length = 4 → h.length = 4 → encGrp g = encGrp h → g = h) ∧
  (∀ g : List Byte, g.length = 4 → encGrp g ≠ List.replicate 5 0x75#8)

/-- The core string (42_encoder.md R146, 41_grouping_padding.md R127). -/
def Obligations.CoreString : Prop :=
  ∀ b : List Byte, (coreString b).length = b.length + (b.length + 3) / 4 ∧
    ∀ c ∈ coreString b, symClass c = .digit

/-- The zero shorthand on the flat core string (42_encoder.md R147, R148, 90_conflicts.md C1). -/
def Obligations.ZeroShorthand : Prop :=
  (∀ s : List Byte, ¬ List.replicate 5 0x21#8 <:+: zpack s ∧ (zpack s).length ≤ s.length) ∧
  (∀ s : List Byte, 0x7A#8 ∉ s → zexpand (zpack s) = s) ∧
  (∀ m : Nat, zpack (List.replicate m 0x21#8) =
    List.replicate (m / 5) 0x7A#8 ++ List.replicate (m % 5) 0x21#8) ∧
  (∀ (m : Nat) (c : Byte) (s : List Byte), c ≠ 0x21#8 →
    zpack (List.replicate m 0x21#8 ++ c :: s) =
      List.replicate (m / 5) 0x7A#8 ++ List.replicate (m % 5) 0x21#8 ++ c :: zpack s)

/-- The form and the length of an ENC output message (30_encoding.md R77, 42_encoder.md R152). -/
def Obligations.EncodedForm : Prop :=
  ∀ b : List Byte, ∃ body : List Byte,
    encodeMsg b = [0x3C#8, 0x7E#8] ++ body ++ [0x7E#8, 0x3E#8] ∧
    (∀ c ∈ body, symClass c = .digit ∨ c = 0x7A#8) ∧
    ¬ List.replicate 5 0x21#8 <:+: body ∧
    (zexpand body).length = b.length + (b.length + 3) / 4 ∧
    4 + (b.length + (b.length + 3) / 4 + 4) / 5 ≤ (encodeMsg b).length ∧
    (encodeMsg b).length ≤ 4 + b.length + (b.length + 3) / 4

/-- The markers (43_decoder.md R171). -/
def Obligations.StripMarkers : Prop :=
  ∀ x : List Byte,
    (([0x3C#8, 0x7E#8] <+: x ∧ (stripm x).2 = 2) ∨
      (¬ [0x3C#8, 0x7E#8] <+: x ∧ (stripm x).2 = 0)) ∧
    (([0x7E#8, 0x3E#8] <:+ x.drop (stripm x).2 ∧
        x.drop (stripm x).2 = (stripm x).1 ++ [0x7E#8, 0x3E#8]) ∨
      (¬ [0x7E#8, 0x3E#8] <:+ x.drop (stripm x).2 ∧ x.drop (stripm x).2 = (stripm x).1))

/-- The alphabet check (43_decoder.md R174). -/
def Obligations.InvalidInputReportsTheFirst : Prop :=
  ∀ (x : List Byte) (sym : Byte) (idx : Nat),
    (decodeMsg x = .invalidInput sym idx ↔
      ∃ i : Nat, idx = (stripm x).2 + i ∧ (stripm x).1[i]? = some sym ∧ symClass sym = .bad ∧
        ∀ (j : Nat) (c : Byte), j < i → (stripm x).1[j]? = some c → symClass c ≠ .bad) ∧
    (decodeMsg x = .invalidInput sym idx → x[idx]? = some sym)

/-- The two cleaning stages (43_decoder.md R172, R173). -/
def Obligations.WhitespaceAndShorthandStages : Prop :=
  (∀ (p q : List Byte) (c : Byte),
    stripw (p ++ c :: q) =
      stripw p ++ (if c ∈ [0x09#8, 0x0A#8, 0x0B#8, 0x0C#8, 0x0D#8, 0x20#8] then [] else [c]) ++
        stripw q) ∧
  (∀ (p q : List Byte) (c : Byte),
    zexpand (p ++ c :: q) =
      zexpand p ++ (if c = 0x7A#8 then List.replicate 5 0x21#8 else [c]) ++ zexpand q) ∧
  stripw [] = [] ∧ zexpand [] = [] ∧
  (∀ u : List Byte, (zexpand u).length = u.length + 4 * u.count 0x7A#8)

/-- The DEC length law (41_grouping_padding.md R127, 43_decoder.md R182). -/
def Obligations.DecodedLength : Prop :=
  ∀ x b : List Byte, decodeMsg x = .bytes b →
    b.length = (zexpand (stripw (stripm x).1)).length -
      ((zexpand (stripw (stripm x).1)).length + 4) / 5

/-- The decoding of whole and short groups (43_decoder.md R175 to R182). -/
def Obligations.ShortTailRule : Prop :=
  decodeDigits [] = [] ∧
  (∀ g rest : List Byte, g.length = 5 → decodeDigits (g ++ rest) = decGrp g ++ decodeDigits rest) ∧
  (∀ g : List Byte, 1 ≤ g.length → g.length ≤ 4 →
    decodeDigits g = (decGrp (g ++ List.replicate (5 - g.length) 0x75#8)).take (g.length - 1))

/-- Whitespace tolerance (43_decoder.md R185 (c)). -/
def Obligations.WhitespaceTolerance : Prop :=
  ∀ x t' : List Byte, (stripm x).1.Sublist t' → stripw t' = stripw (stripm x).1 →
    (∀ b, decodeMsg x = .bytes b →
      decodeMsg (x.take (stripm x).2 ++ t' ++ x.drop ((stripm x).2 + (stripm x).1.length)) =
        .bytes b) ∧
    (∀ sym idx, decodeMsg x = .invalidInput sym idx → ∃ idx',
      decodeMsg (x.take (stripm x).2 ++ t' ++ x.drop ((stripm x).2 + (stripm x).1.length)) =
        .invalidInput sym idx')

/-- Markers are never required (43_decoder.md R184). -/
def Obligations.MarkersAreOptional : Prop :=
  ∀ t : List Byte, (∀ c ∈ t, symClass c ≠ .bad) → ∃ b : List Byte,
    decodeMsg t = .bytes b ∧ decodeMsg (openMarker ++ t) = .bytes b ∧
    decodeMsg (t ++ closeMarker) = .bytes b ∧ decodeMsg (openMarker ++ t ++ closeMarker) = .bytes b

/-- The round trip of the block, for every message (43_decoder.md R185 (a)). -/
def Obligations.MessageRoundTrip : Prop :=
  ∀ b : List Byte, decodeMsg (encodeMsg b) = .bytes b

/-- One whole message through ENC (95_test_vectors.md T10); the drives and the list of beats are the model's own (assumptions 1, 7). -/
def Obligations.EncodeRun : Prop :=
  ∀ (s : State) (x : List Byte) (rest : List Drive), s.enc = UnitState.reset →
    withinMax s.cfg.encInMax x.length = true →
    s.script = sendMsg .enc x ++ takeMsg .enc (encodeMsg x).length ++ rest →
    Host.Core.run core ((x.length + 1) + ((encodeMsg x).length + 1)) s =
      .next { s with script := rest, encTaken := s.encTaken ++ msgBeats (encodeMsg x) }

/-- One whole message through DEC (95_test_vectors.md T10); the drives and the list of beats are the model's own (assumptions 1, 7). -/
def Obligations.DecodeRun : Prop :=
  (∀ (s : State) (x b : List Byte) (rest : List Drive), s.dec = UnitState.reset →
    withinMax s.cfg.decInMax x.length = true → decodeMsg x = .bytes b →
    s.script = sendMsg .dec x ++ takeMsg .dec b.length ++ rest →
    Host.Core.run core ((x.length + 1) + (b.length + 1)) s =
      .next { s with script := rest, decTaken := s.decTaken ++ msgBeats b }) ∧
  (∀ (s : State) (x : List Byte) (sym : Byte) (idx : Nat) (rest : List Drive),
    s.dec = UnitState.reset → withinMax s.cfg.decInMax x.length = true →
    decodeMsg x = .invalidInput sym idx → s.script = sendMsg .dec x ++ rest →
    Host.Core.run core (x.length + 1) s = .next { s with script := rest, dec :=
      { phase := .fault, ibuf := [], obuf := [], err := 1#2, errSym := sym, errIdx := idx } })
end

