-- ==== Sys2Proof/Laws/Datapath.lean ====
section
/-! SUPPORT. The equations of the datapath functions, one step of each at a time, so that a proof need
not unfold them: the base converter, SPLIT group by group, the scans of ZPACK, CHECK, STRIPW, ZEXPAND. -/

namespace Sys2Proof.Machine

/-! base converter -/

theorem d2i_nil (r : Nat) : d2i r [] = 0 := rfl

theorem d2i_append (r : Nat) (ds : List Nat) (d : Nat) : d2i r (ds ++ [d]) = d2i r ds * r + d := by
  simp [d2i]

/-- The accumulator of the loop stands after the digits the loop produces. -/
theorem i2dLoop_append (r w v : Nat) (out : List Nat) :
    i2dLoop r w v out = i2d r w v ++ out := by
  induction w generalizing v out with
  | zero => rfl
  | succ w ih =>
    change i2dLoop r w (v / r) (v % r :: out) = i2dLoop r w (v / r) [v % r] ++ out
    rw [ih, ih _ [v % r], List.append_assoc]
    rfl

theorem i2d_zero (r v : Nat) : i2d r 0 v = [] := rfl

/-- The least significant digit is the last one. -/
theorem i2d_succ (r w v : Nat) : i2d r (w + 1) v = i2d r w (v / r) ++ [v % r] := by
  exact i2dLoop_append r w (v / r) [v % r]

/-! SPLIT -/

theorem split_nil (w : Nat) : split w [] = [] := by simp [split]

/-- The first group of a sequence that begins with a whole group. -/
theorem split_append {w : Nat} (hw : 0 < w) {g : List Byte} (hg : g.length = w)
    (rest : List Byte) : split w (g ++ rest) = g :: split w rest := by
  have hl : (g ++ rest).length / w = rest.length / w + 1 := by
    rw [List.length_append, hg, Nat.add_comm, Nat.add_div_right _ hw]
  unfold split
  rw [hl, List.range_succ_eq_map, List.map_cons, List.map_map]
  refine congrArg₂ List.cons ?_ (List.map_congr_left fun k _ => ?_)
  · simp [← hg]
  · have : w * (k + 1) = g.length + w * k := by rw [hg, Nat.mul_add, Nat.mul_one, Nat.add_comm]
    simp [this]

/-! scans -/

theorem zpackScan_nil (n : Nat) : zpackScan n [] = [] := by cases n <;> rfl

theorem zpackScan_skip (n : Nat) (s : List Byte) : zpackScan n s = zpackScan 0 (s.drop n) := by
  induction n generalizing s with
  | zero => rfl
  | succ n ih =>
    cases s with
    | nil => rfl
    | cons c s => exact ih s

/-- A match: five `!` become one `z` and the scan goes on behind them. -/
theorem zpack_match (s : List Byte) : zpack (fiveBangs ++ s) = zChar :: zpack s := by
  rfl

/-- No match: the symbol is kept and the scan goes on at the next index. -/
theorem zpack_keep {c : Byte} {s : List Byte} (h : ¬ fiveBangs <+: c :: s) :
    zpack (c :: s) = c :: zpack s := by
  have : (c :: s).take 5 ≠ fiveBangs := fun e => h (e ▸ List.take_prefix 5 _)
  unfold zpack
  rw [zpackScan, if_neg this]

theorem check_nil (a : Nat) : check [] a = none := rfl

theorem check_cons_bad {c : Byte} (h : symClass c = .bad) (t : List Byte) (a : Nat) :
    check (c :: t) a = some (c, a) := by simp [check, h]

theorem check_cons_ok {c : Byte} (h : symClass c ≠ .bad) (t : List Byte) (a : Nat) :
    check (c :: t) a = check t (a + 1) := by simp [check, h]

theorem stripw_append (p q : List Byte) : stripw (p ++ q) = stripw p ++ stripw q := by
  simp [stripw]

theorem zexpand_append (p q : List Byte) : zexpand (p ++ q) = zexpand p ++ zexpand q := by
  simp [zexpand]

theorem zexpand_cons (c : Byte) (u : List Byte) : zexpand (c :: u) = zexpandSym c ++ zexpand u := by
  simp [zexpand]

/-! TRIM -/

theorem trim_eq_take (s : List Byte) (k : Nat) : trim s k = s.take (s.length - k) := by
  unfold trim
  split
  · next h => simp [h]
  · rfl

end Sys2Proof.Machine
end

