-- ==== Sys2Proof/Laws/State.lean ====
section
/-! SUPPORT. The small lemmas of the state: what each named update does to each field, and the laws of
reaching a unit. -/

namespace Sys2Proof.Machine

/-! `getUnit` and `setUnit` -/

@[simp] theorem getUnit_enc (s : State) : getUnit .enc s = s.enc := rfl
@[simp] theorem getUnit_dec (s : State) : getUnit .dec s = s.dec := rfl
@[simp] theorem inMax_enc (s : State) : inMax .enc s = s.cfg.encInMax := rfl
@[simp] theorem inMax_dec (s : State) : inMax .dec s = s.cfg.decInMax := rfl
@[simp] theorem takenFrom_enc (s : State) : takenFrom .enc s = s.encTaken := rfl
@[simp] theorem takenFrom_dec (s : State) : takenFrom .dec s = s.decTaken := rfl

theorem setUnit_enc (x : UnitState) (s : State) : setUnit .enc x s = { s with enc := x } := rfl
theorem setUnit_dec (x : UnitState) (s : State) : setUnit .dec x s = { s with dec := x } := rfl

@[simp] theorem getUnit_setUnit (u : UnitId) (x : UnitState) (s : State) :
    getUnit u (setUnit u x s) = x := by cases u <;> rfl

@[simp] theorem getUnit_other_setUnit (u : UnitId) (x : UnitState) (s : State) :
    getUnit (otherUnit u) (setUnit u x s) = getUnit (otherUnit u) s := by cases u <;> rfl

@[simp] theorem setUnit_getUnit (u : UnitId) (s : State) : setUnit u (getUnit u s) s = s := by
  cases u <;> rfl

@[simp] theorem setUnit_cfg (u : UnitId) (x : UnitState) (s : State) :
    (setUnit u x s).cfg = s.cfg := by cases u <;> rfl

@[simp] theorem setUnit_script (u : UnitId) (x : UnitState) (s : State) :
    (setUnit u x s).script = s.script := by cases u <;> rfl

@[simp] theorem takenFrom_setUnit (u v : UnitId) (x : UnitState) (s : State) :
    takenFrom v (setUnit u x s) = takenFrom v s := by cases u <;> cases v <;> rfl

@[simp] theorem inMax_setUnit (u v : UnitId) (x : UnitState) (s : State) :
    inMax v (setUnit u x s) = inMax v s := by cases u <;> cases v <;> rfl

/-! `deliver` -/

@[simp] theorem deliver_cfg (u : UnitId) (b : Beat) (s : State) : (deliver u b s).cfg = s.cfg := by
  cases u <;> rfl

@[simp] theorem deliver_script (u : UnitId) (b : Beat) (s : State) :
    (deliver u b s).script = s.script := by cases u <;> rfl

@[simp] theorem getUnit_deliver (u v : UnitId) (b : Beat) (s : State) :
    getUnit v (deliver u b s) = getUnit v s := by cases u <;> cases v <;> rfl

@[simp] theorem takenFrom_deliver (u : UnitId) (b : Beat) (s : State) :
    takenFrom u (deliver u b s) = takenFrom u s ++ [b] := by cases u <;> rfl

@[simp] theorem takenFrom_other_deliver (u : UnitId) (b : Beat) (s : State) :
    takenFrom (otherUnit u) (deliver u b s) = takenFrom (otherUnit u) s := by cases u <;> rfl

/-! the script -/

@[simp] theorem prependDrive_script (e : Drive) (s : State) :
    (prependDrive e s).script = e :: s.script := rfl

@[simp] theorem getUnit_prependDrive (u : UnitId) (e : Drive) (s : State) :
    getUnit u (prependDrive e s) = getUnit u s := by cases u <;> rfl

@[simp] theorem dropDrive_prependDrive (e : Drive) (s : State) :
    dropDrive (prependDrive e s) = s := rfl

@[simp] theorem dropDrive_cfg (s : State) : (dropDrive s).cfg = s.cfg := rfl
@[simp] theorem dropDrive_enc (s : State) : (dropDrive s).enc = s.enc := rfl
@[simp] theorem dropDrive_dec (s : State) : (dropDrive s).dec = s.dec := rfl
@[simp] theorem dropDrive_encTaken (s : State) : (dropDrive s).encTaken = s.encTaken := rfl
@[simp] theorem dropDrive_decTaken (s : State) : (dropDrive s).decTaken = s.decTaken := rfl
@[simp] theorem dropDrive_script (s : State) : (dropDrive s).script = s.script.drop 1 := rfl

@[simp] theorem getUnit_dropDrive (u : UnitId) (s : State) :
    getUnit u (dropDrive s) = getUnit u s := by cases u <;> rfl

@[simp] theorem inMax_dropDrive (u : UnitId) (s : State) :
    inMax u (dropDrive s) = inMax u s := by cases u <;> rfl

@[simp] theorem takenFrom_dropDrive (u : UnitId) (s : State) :
    takenFrom u (dropDrive s) = takenFrom u s := by cases u <;> rfl

/-! the fault record -/

@[simp] theorem faultEntry_phase (c : BitVec 2) (v : Byte) (n : Nat) :
    (faultEntry c v n).phase = .fault := rfl
@[simp] theorem faultEntry_ibuf (c : BitVec 2) (v : Byte) (n : Nat) :
    (faultEntry c v n).ibuf = [] := rfl
@[simp] theorem faultEntry_obuf (c : BitVec 2) (v : Byte) (n : Nat) :
    (faultEntry c v n).obuf = [] := rfl
@[simp] theorem faultEntry_err (c : BitVec 2) (v : Byte) (n : Nat) :
    (faultEntry c v n).err = c := rfl
@[simp] theorem faultEntry_errSym (c : BitVec 2) (v : Byte) (n : Nat) :
    (faultEntry c v n).errSym = v := rfl
@[simp] theorem faultEntry_errIdx (c : BitVec 2) (v : Byte) (n : Nat) :
    (faultEntry c v n).errIdx = n := rfl

/-- Two states are equal when every field is. -/
theorem State.ext_fields {s t : State} (hc : t.cfg = s.cfg) (he : t.enc = s.enc)
    (hd : t.dec = s.dec) (het : t.encTaken = s.encTaken) (hdt : t.decTaken = s.decTaken)
    (hs : t.script = s.script) : t = s := by
  cases s; cases t; simp_all

end Sys2Proof.Machine
end

