-- ==== Sys2Proof/Laws/Ops.lean ====
section
/-! SUPPORT. One lemma for each shared operation that says everything it can do, in the forms a proof
meets it: the accepted case, the fault, the wait. -/

namespace Sys2Proof.Machine

/-- Everything `PUSH` can do to a unit's record. -/
theorem pushUnit_cases (max : Option Nat) (v : Byte) (x : UnitState) :
    (x.phase ≠ .load ∧ pushUnit max v x = x) ∨
    (x.phase = .load ∧ max ≠ some x.ibuf.length ∧
      pushUnit max v x = { x with ibuf := x.ibuf ++ [v] }) ∨
    (x.phase = .load ∧ max = some x.ibuf.length ∧
      pushUnit max v x = faultEntry errBufferOverflow v x.ibuf.length) := by
  unfold pushUnit
  by_cases hp : x.phase = .load
  · cases max with
    | none => simp [hp, bufAppend]
    | some m =>
      by_cases hm : x.ibuf.length = m
      · simp [hp, hm]
      · simp [hp, hm, bufAppend, Ne.symm hm]
  · simp [hp]

/-- Outside LOAD a `PUSH` changes nothing. -/
theorem push_of_not_load {u : UnitId} {v : Byte} {s : State} (h : (getUnit u s).phase ≠ .load) :
    push u v s = s := by
  unfold push
  rcases pushUnit_cases (inMax u s) v (getUnit u s) with ⟨_, e⟩ | ⟨hp, _⟩ | ⟨hp, _⟩
  · rw [e, setUnit_getUnit]
  · exact absurd hp h
  · exact absurd hp h

/-- An accepted `PUSH` appends its symbol. -/
theorem push_accepted {u : UnitId} {v : Byte} {s : State} (h : (getUnit u s).phase = .load)
    (hm : inMax u s ≠ some (getUnit u s).ibuf.length) :
    push u v s = setUnit u { getUnit u s with ibuf := (getUnit u s).ibuf ++ [v] } s := by
  unfold push
  rcases pushUnit_cases (inMax u s) v (getUnit u s) with ⟨hp, _⟩ | ⟨_, _, e⟩ | ⟨_, hf, _⟩
  · exact absurd h hp
  · rw [e]
  · exact absurd hf hm

/-- A `PUSH` on a full buffer enters the fault `BufferOverflow`. -/
theorem push_overflow {u : UnitId} {v : Byte} {s : State} (h : (getUnit u s).phase = .load)
    (hm : inMax u s = some (getUnit u s).ibuf.length) :
    push u v s = setUnit u (faultEntry errBufferOverflow v (getUnit u s).ibuf.length) s := by
  unfold push
  rcases pushUnit_cases (inMax u s) v (getUnit u s) with ⟨hp, _⟩ | ⟨_, hf, _⟩ | ⟨_, _, e⟩
  · exact absurd h hp
  · exact absurd hm hf
  · rw [e]

/-- Everything `END` can do to the record of ENC. -/
theorem endEnc_cases (x : UnitState) :
    (x.phase ≠ .load ∧ endEnc x = x) ∨
    (x.phase = .load ∧
      endEnc x = { x with obuf := encodeMsg x.ibuf, ibuf := [], phase := .drain }) := by
  unfold endEnc
  by_cases hp : x.phase = .load <;> simp [hp]

/-- Everything `END` can do to the record of DEC. -/
theorem endDec_cases (x : UnitState) :
    (x.phase ≠ .load ∧ endDec x = x) ∨
    (∃ b, x.phase = .load ∧ decodeMsg x.ibuf = .bytes b ∧
      endDec x = { x with obuf := b, ibuf := [], phase := .drain }) ∨
    (∃ sym idx, x.phase = .load ∧ decodeMsg x.ibuf = .invalidInput sym idx ∧
      endDec x = faultEntry errInvalidInput sym idx) := by
  unfold endDec
  by_cases hp : x.phase = .load
  · cases hd : decodeMsg x.ibuf with
    | bytes b => simp [hp]
    | invalidInput sym idx => simp [hp]
  · simp [hp]

theorem presentsData_iff (v : Byte) (x : UnitState) :
    presentsData v x = true ↔ x.phase = .drain ∧ ∃ rest, x.obuf = v :: rest := by
  simp [presentsData, List.head?_eq_some_iff]

theorem presentsEnd_iff (data : Byte) (x : UnitState) :
    presentsEnd data x = true ↔ x.phase = .drain ∧ x.obuf = [] ∧ data = 0x00#8 := by
  simp [presentsEnd, and_assoc]

/-- A data beat is presented exactly when the output signals carry it (10_state.md R35). -/
theorem presentsData_iff_signals (v : Byte) (x : UnitState) :
    presentsData v x = true ↔ outValid x = true ∧ outKind x = 0#1 ∧ outData x = v := by
  by_cases hp : x.phase = .drain <;> cases ho : x.obuf <;>
    simp [presentsData, outValid, outKind, outData, hp, ho]

/-- An end beat is presented exactly when the output signals carry it (10_state.md R35). -/
theorem presentsEnd_iff_signals (data : Byte) (x : UnitState) :
    presentsEnd data x = true ↔ outValid x = true ∧ outKind x = 1#1 ∧ outData x = data := by
  by_cases hp : x.phase = .drain <;> cases ho : x.obuf <;>
    simp [presentsEnd, outValid, outKind, outData, hp, ho, eq_comm (a := data)]

/-- A beat the unit does not present is not taken. -/
theorem popData_of_not {u : UnitId} {v : Byte} {s : State}
    (h : presentsData v (getUnit u s) = false) : popData u v s = s := by
  simp [popData, h]

/-- An end beat the unit does not present is not taken. -/
theorem popEnd_of_not {u : UnitId} {data : Byte} {s : State}
    (h : presentsEnd data (getUnit u s) = false) : popEnd u data s = s := by
  simp [popEnd, h]

/-- Outside DRAIN no data beat is presented. -/
theorem presentsData_of_not_drain {v : Byte} {x : UnitState} (h : x.phase ≠ .drain) :
    presentsData v x = false := by simp [presentsData, h]

/-- Outside DRAIN no end beat is presented. -/
theorem presentsEnd_of_not_drain {data : Byte} {x : UnitState} (h : x.phase ≠ .drain) :
    presentsEnd data x = false := by simp [presentsEnd, h]

/-- Everything `POP` with data can do. -/
theorem popData_cases (u : UnitId) (v : Byte) (s : State) :
    (presentsData v (getUnit u s) = false ∧ popData u v s = s) ∨
    (∃ rest, (getUnit u s).phase = .drain ∧ (getUnit u s).obuf = v :: rest ∧
      popData u v s = deliver u (dataBeat v) (setUnit u { getUnit u s with obuf := rest } s)) := by
  unfold popData
  cases h : presentsData v (getUnit u s) with
  | false => exact .inl ⟨rfl, rfl⟩
  | true =>
    obtain ⟨hp, rest, hr⟩ := (presentsData_iff v _).mp h
    exact .inr ⟨rest, hp, hr, by simp [hr]⟩

/-- Everything `POP` at the end can do. -/
theorem popEnd_cases (u : UnitId) (data : Byte) (s : State) :
    (presentsEnd data (getUnit u s) = false ∧ popEnd u data s = s) ∨
    ((getUnit u s).phase = .drain ∧ (getUnit u s).obuf = [] ∧ data = 0x00#8 ∧
      popEnd u data s = deliver u endBeat (setUnit u { getUnit u s with phase := .load } s)) := by
  unfold popEnd
  cases h : presentsEnd data (getUnit u s) with
  | false => exact .inl ⟨rfl, rfl⟩
  | true =>
    obtain ⟨hp, ho, hd⟩ := (presentsEnd_iff data _).mp h
    exact .inr ⟨hp, ho, hd, by rw [hd]; rfl⟩

/-- An operation that only writes the record of a unit stays inside it. -/
theorem setUnit_sameOutside (u : UnitId) (x : UnitState) (s : State) :
    SameOutside u s (setUnit u x s) := by simp [SameOutside]

/-- Delivering a beat stays inside the unit. -/
theorem deliver_sameOutside (u : UnitId) (b : Beat) (s : State) :
    SameOutside u s (deliver u b s) := by simp [SameOutside]

theorem SameOutside.rfl' (u : UnitId) (s : State) : SameOutside u s s := ⟨rfl, rfl, rfl, rfl⟩

theorem SameOutside.trans' {u : UnitId} {s t r : State} (h : SameOutside u s t)
    (k : SameOutside u t r) : SameOutside u s r :=
  ⟨k.1.trans h.1, k.2.1.trans h.2.1, k.2.2.1.trans h.2.2.1, k.2.2.2.trans h.2.2.2⟩

theorem push_sameOutside (u : UnitId) (v : Byte) (s : State) : SameOutside u s (push u v s) :=
  setUnit_sameOutside u _ s

theorem popData_sameOutside (u : UnitId) (v : Byte) (s : State) :
    SameOutside u s (popData u v s) := by
  rcases popData_cases u v s with ⟨_, e⟩ | ⟨_, _, _, e⟩
  · rw [e]; exact .rfl' u s
  · rw [e]; exact (setUnit_sameOutside u _ s).trans' (deliver_sameOutside u _ _)

theorem popEnd_sameOutside (u : UnitId) (d : Byte) (s : State) :
    SameOutside u s (popEnd u d s) := by
  rcases popEnd_cases u d s with ⟨_, e⟩ | ⟨_, _, _, e⟩
  · rw [e]; exact .rfl' u s
  · rw [e]; exact (setUnit_sameOutside u _ s).trans' (deliver_sameOutside u _ _)

end Sys2Proof.Machine
end

