-- ==== Sys2Proof/Laws/Memory.lean ====
section
/-! SUPPORT. Every operation on the buffers keeps the memory well formed, and reset memory is. -/

namespace Sys2Proof.Machine

theorem withinMax_none (n : Nat) : withinMax none n = true := rfl

theorem withinMax_some {m n : Nat} : withinMax (some m) n = true ↔ n ≤ m := by
  simp [withinMax]

theorem withinMax_zero (max : Option Nat) : withinMax max 0 = true := by
  cases max <;> simp [withinMax]

/-- A buffer within its capacity and not full takes one more symbol. -/
theorem withinMax_succ {max : Option Nat} {n : Nat} (h : withinMax max n = true)
    (hn : max ≠ some n) : withinMax max (n + 1) = true := by
  cases max with
  | none => rfl
  | some m =>
    rw [withinMax_some] at h ⊢
    have : n ≠ m := fun e => hn (by rw [e])
    omega

theorem pushUnit_within {max : Option Nat} {v : Byte} {x : UnitState}
    (h : withinMax max x.ibuf.length = true) :
    withinMax max (pushUnit max v x).ibuf.length = true := by
  rcases pushUnit_cases max v x with ⟨_, e⟩ | ⟨_, hm, e⟩ | ⟨_, _, e⟩ <;> rw [e]
  · exact h
  · simpa using withinMax_succ h hm
  · exact withinMax_zero max

theorem endEnc_within {max : Option Nat} {x : UnitState}
    (h : withinMax max x.ibuf.length = true) :
    withinMax max (endEnc x).ibuf.length = true := by
  rcases endEnc_cases x with ⟨_, e⟩ | ⟨_, e⟩ <;> rw [e]
  · exact h
  · exact withinMax_zero max

theorem endDec_within {max : Option Nat} {x : UnitState}
    (h : withinMax max x.ibuf.length = true) :
    withinMax max (endDec x).ibuf.length = true := by
  rcases endDec_cases x with ⟨_, e⟩ | ⟨_, _, _, e⟩ | ⟨_, _, _, _, e⟩ <;> rw [e]
  · exact h
  · exact withinMax_zero max
  · exact withinMax_zero max

/-- The memory is well formed iff each unit's input buffer is within its capacity. -/
theorem wf_iff (s : State) :
    Memory.wf s ↔ ∀ u, withinMax (inMax u s) (getUnit u s).ibuf.length = true :=
  ⟨fun h u => by cases u; exacts [h.1, h.2], fun h => ⟨h .enc, h .dec⟩⟩

/-- Writing a unit's record keeps the memory well formed if the new input buffer fits. -/
theorem setUnit_wf {u : UnitId} {x : UnitState} {s : State} (h : Memory.wf s)
    (hx : withinMax (inMax u s) x.ibuf.length = true) : Memory.wf (setUnit u x s) := by
  cases u
  · exact ⟨hx, h.2⟩
  · exact ⟨h.1, hx⟩

theorem deliver_wf {u : UnitId} {b : Beat} {s : State} (h : Memory.wf s) :
    Memory.wf (deliver u b s) := by
  cases u <;> exact h

theorem push_wf {u : UnitId} {v : Byte} {s : State} (h : Memory.wf s) : Memory.wf (push u v s) :=
  setUnit_wf h (pushUnit_within ((wf_iff s).mp h u))

theorem encEnd_wf {s : State} (h : Memory.wf s) : Memory.wf (setUnit .enc (endEnc s.enc) s) :=
  setUnit_wf h (endEnc_within h.1)

theorem decEnd_wf {s : State} (h : Memory.wf s) : Memory.wf (setUnit .dec (endDec s.dec) s) :=
  setUnit_wf h (endDec_within h.2)

theorem popData_wf {u : UnitId} {v : Byte} {s : State} (h : Memory.wf s) :
    Memory.wf (popData u v s) := by
  rcases popData_cases u v s with ⟨_, e⟩ | ⟨_, _, _, e⟩ <;> rw [e]
  · exact h
  · exact deliver_wf (setUnit_wf h ((wf_iff s).mp h u))

theorem popEnd_wf {u : UnitId} {d : Byte} {s : State} (h : Memory.wf s) :
    Memory.wf (popEnd u d s) := by
  rcases popEnd_cases u d s with ⟨_, e⟩ | ⟨_, _, _, e⟩ <;> rw [e]
  · exact h
  · exact deliver_wf (setUnit_wf h ((wf_iff s).mp h u))

theorem resetUnit_wf {u : UnitId} {s : State} (h : Memory.wf s) : Memory.wf (resetUnit u s) :=
  setUnit_wf h (withinMax_zero _)

theorem reset_memory_wf (c : Config) : Memory.wf (State.resetWith c) :=
  ⟨withinMax_zero _, withinMax_zero _⟩

end Sys2Proof.Machine
end

