-- ==== Sys2Proof/Laws/PerInstr.lean ====
section
/-! SUPPORT. Statements for all instructions, proved constructor by constructor. `EncodeFits`: the word
of every instruction fits the width of its lane's format (30_encoding.md R70), and its lane belongs to
the unit of its row. -/

namespace Sys2Proof.Laws

open Sys2Proof.Machine

/-- The width in bits of the words of a lane (30_encoding.md R70, R90). -/
def laneWidth : Lane → Nat
  | .beatIn _ => 9
  | .beatOut _ => 9
  | .rst _ => 1
  | .byte => 8
  | .char => 8

/-- The unit a lane belongs to. -/
def laneUnit : Lane → UnitId
  | .beatIn u => u
  | .beatOut u => u
  | .rst u => u
  | .byte => .enc
  | .char => .dec

/-- The word fits the lane, and the lane is one of the instruction's unit. -/
def EncodeFits.Statement (i : Instr) : Prop :=
  (encode i).2 < 2 ^ laneWidth (encode i).1 ∧ laneUnit (encode i).1 = unitOf i

theorem EncodeFits.encPush (v : Byte) : EncodeFits.Statement (.encPush v) := ⟨BitVec.isLt _, rfl⟩
theorem EncodeFits.encEnd (data : Byte) : EncodeFits.Statement (.encEnd data) := ⟨BitVec.isLt _, rfl⟩
theorem EncodeFits.decPush (v : Byte) : EncodeFits.Statement (.decPush v) := ⟨BitVec.isLt _, rfl⟩
theorem EncodeFits.decEnd (data : Byte) : EncodeFits.Statement (.decEnd data) := ⟨BitVec.isLt _, rfl⟩
theorem EncodeFits.encData (v : Byte) : EncodeFits.Statement (.encData v) := ⟨BitVec.isLt _, rfl⟩
theorem EncodeFits.encEndOut (data : Byte) : EncodeFits.Statement (.encEndOut data) := ⟨BitVec.isLt _, rfl⟩
theorem EncodeFits.decData (v : Byte) : EncodeFits.Statement (.decData v) := ⟨BitVec.isLt _, rfl⟩
theorem EncodeFits.decEndOut (data : Byte) : EncodeFits.Statement (.decEndOut data) := ⟨BitVec.isLt _, rfl⟩
theorem EncodeFits.reset (u : UnitId) : EncodeFits.Statement (.reset u) := by cases u <;> exact ⟨by decide, rfl⟩
theorem EncodeFits.byte (v : Byte) : EncodeFits.Statement (.byte v) := ⟨BitVec.isLt _, rfl⟩
theorem EncodeFits.ws09 : EncodeFits.Statement .ws09 := ⟨by decide, rfl⟩
theorem EncodeFits.ws0A (x : BitVec 1) : EncodeFits.Statement (.ws0A x) := ⟨BitVec.isLt _, rfl⟩
theorem EncodeFits.ws0C (x : BitVec 1) : EncodeFits.Statement (.ws0C x) := ⟨BitVec.isLt _, rfl⟩
theorem EncodeFits.ws20 : EncodeFits.Statement .ws20 := ⟨by decide, rfl⟩
theorem EncodeFits.digit21 : EncodeFits.Statement .digit21 := ⟨by decide, rfl⟩
theorem EncodeFits.digit22 (x : BitVec 1) : EncodeFits.Statement (.digit22 x) := ⟨BitVec.isLt _, rfl⟩
theorem EncodeFits.digit24 (x : BitVec 2) : EncodeFits.Statement (.digit24 x) := ⟨BitVec.isLt _, rfl⟩
theorem EncodeFits.digit28 (x : BitVec 3) : EncodeFits.Statement (.digit28 x) := ⟨BitVec.isLt _, rfl⟩
theorem EncodeFits.digit30 (x : BitVec 4) : EncodeFits.Statement (.digit30 x) := ⟨BitVec.isLt _, rfl⟩
theorem EncodeFits.digit40 (x : BitVec 5) : EncodeFits.Statement (.digit40 x) := ⟨BitVec.isLt _, rfl⟩
theorem EncodeFits.digit60 (x : BitVec 4) : EncodeFits.Statement (.digit60 x) := ⟨BitVec.isLt _, rfl⟩
theorem EncodeFits.digit70 (x : BitVec 2) : EncodeFits.Statement (.digit70 x) := ⟨BitVec.isLt _, rfl⟩
theorem EncodeFits.digit74 (x : BitVec 1) : EncodeFits.Statement (.digit74 x) := ⟨BitVec.isLt _, rfl⟩
theorem EncodeFits.zsh7A : EncodeFits.Statement .zsh7A := ⟨by decide, rfl⟩
theorem EncodeFits.bad00 (x : BitVec 3) : EncodeFits.Statement (.bad00 x) := ⟨BitVec.isLt _, rfl⟩
theorem EncodeFits.bad08 : EncodeFits.Statement .bad08 := ⟨by decide, rfl⟩
theorem EncodeFits.bad0E (x : BitVec 1) : EncodeFits.Statement (.bad0E x) := ⟨BitVec.isLt _, rfl⟩
theorem EncodeFits.bad10 (x : BitVec 4) : EncodeFits.Statement (.bad10 x) := ⟨BitVec.isLt _, rfl⟩
theorem EncodeFits.bad76 (x : BitVec 1) : EncodeFits.Statement (.bad76 x) := ⟨BitVec.isLt _, rfl⟩
theorem EncodeFits.bad78 (x : BitVec 1) : EncodeFits.Statement (.bad78 x) := ⟨BitVec.isLt _, rfl⟩
theorem EncodeFits.bad7B : EncodeFits.Statement .bad7B := ⟨by decide, rfl⟩
theorem EncodeFits.bad7C (x : BitVec 2) : EncodeFits.Statement (.bad7C x) := ⟨BitVec.isLt _, rfl⟩
theorem EncodeFits.bad80 (x : BitVec 7) : EncodeFits.Statement (.bad80 x) := ⟨BitVec.isLt _, rfl⟩

end Sys2Proof.Laws
end

