-- ==== Sys2Proof/Laws/Step.lean ====
section
/-! SUPPORT. What a step and an instruction can do, said once, and how runs are taken apart. -/

namespace Sys2Proof.Machine

/-- Everything a step that answers a next state can have done: nothing to drive, a drive that transfers
nothing, or one decoded instruction. -/
theorem step_cases {s t : State} (h : step s = .next t) :
    (s.script = [] ∧ t = s) ∨
    (∃ e rest, s.script = e :: rest ∧ fetch e s = none ∧ t = dropDrive s) ∨
    (∃ e rest l w i, s.script = e :: rest ∧ fetch e s = some (l, w) ∧ decode l w = .ok i ∧
      exec i (dropDrive s) = .next t) := by
  unfold step at h
  split at h
  · next hs => injection h with h; exact .inl ⟨hs, h.symm⟩
  · next e rest hs =>
    split at h
    · next hf => injection h with h; exact .inr (.inl ⟨e, rest, hs, hf, h.symm⟩)
    · next l w hf =>
      split at h
      · next i hi => exact .inr (.inr ⟨e, rest, l, w, i, hs, hf, hi, h⟩)
      · injection h

/-- What an instruction does: its class of effect, and the operand that effect has. -/
inductive ExecEffect : Instr → State → State → Prop
  | push (i : Instr) (v : Byte) (s : State)
      (kind : (∃ v, i = .encPush v) ∨ (∃ v, i = .decPush v) ∨ (encode i).1 = .byte ∨
        (encode i).1 = .char)
      (operand : i = .encPush v ∨ i = .decPush v ∨ i = .byte v ∨ charCode i = some v) :
      ExecEffect i s (push (unitOf i) v s)
  | encEnd (d : Byte) (s : State) : ExecEffect (.encEnd d) s (setUnit .enc (endEnc s.enc) s)
  | decEnd (d : Byte) (s : State) : ExecEffect (.decEnd d) s (setUnit .dec (endDec s.dec) s)
  | popData (i : Instr) (v : Byte) (s : State) (lane : (encode i).1 = .beatOut (unitOf i))
      (operand : i = .encData v ∨ i = .decData v) : ExecEffect i s (popData (unitOf i) v s)
  | popEnd (i : Instr) (d : Byte) (s : State) (lane : (encode i).1 = .beatOut (unitOf i))
      (operand : i = .encEndOut d ∨ i = .decEndOut d) : ExecEffect i s (popEnd (unitOf i) d s)
  | reset (u : UnitId) (s : State) : ExecEffect (.reset u) s (resetUnit u s)

/-- Everything an instruction can do. -/
theorem exec_effect {i : Instr} {s t : State} (h : exec i s = .next t) : ExecEffect i s t := by
  cases i
  case encPush v => cases h; exact .push _ v _ (.inl ⟨v, rfl⟩) (.inl rfl)
  case decPush v => cases h; exact .push _ v _ (.inr (.inl ⟨v, rfl⟩)) (.inr (.inl rfl))
  case encEnd d => cases h; exact .encEnd _ _
  case decEnd d => cases h; exact .decEnd _ _
  case encData v => cases h; exact .popData _ v _ rfl (.inl rfl)
  case decData v => cases h; exact .popData _ v _ rfl (.inr rfl)
  case encEndOut d => cases h; exact .popEnd _ d _ rfl (.inl rfl)
  case decEndOut d => cases h; exact .popEnd _ d _ rfl (.inr rfl)
  case reset u => cases h; exact .reset _ _
  case byte v => cases h; exact .push _ v _ (.inr (.inr (.inl rfl))) (.inr (.inr (.inl rfl)))
  all_goals (cases h; exact .push _ _ _ (.inr (.inr (.inr rfl))) (.inr (.inr (.inr rfl))))

/-- A run whose first step answers a next state goes on from there. -/
theorem run_succ {M : Host.Core} {s t : M.State} (h : M.step s = .next t) (n : Nat) :
    Host.Core.run M (n + 1) s = Host.Core.run M n t := by
  rw [Host.Core.run, h]

/-- A run in two parts. -/
theorem run_add {M : Host.Core} {m : Nat} {s t : M.State} (h : Host.Core.run M m s = .next t)
    (n : Nat) : Host.Core.run M (m + n) s = Host.Core.run M n t := by
  induction m generalizing s with
  | zero =>
    rw [Host.Core.run] at h
    injection h with h
    rw [h, Nat.zero_add]
  | succ m ih =>
    rw [Host.Core.run] at h
    split at h
    · next s' hs => rw [Nat.succ_add, run_succ hs, ih h]
    · injection h
    · injection h

end Sys2Proof.Machine
end

