-- ==== Sys2Proof/Tests/Slice0.lean ====
section
/-! SUPPORT. The model's own tests: the WellFormed smoke, the decoding of a written-out word for every
row, vectors of 95_test_vectors.md, and for every obligation with hypotheses a witness that meets them. -/

namespace Sys2Proof.Tests

open Sys2Proof.Machine

/-! ### Small states -/

/-- A unit record without a fault. -/
def unitAt (p : Phase) (i o : List Byte) : UnitState :=
  { UnitState.reset with phase := p, ibuf := i, obuf := o }

/-- A machine with these two units and nothing to drive. -/
def machine (e d : UnitState) : State := { State.reset with enc := e, dec := d }

/-- The same machine with both capacities `m`. -/
def capped (m : Nat) (s : State) : State :=
  { s with cfg := { encInMax := some m, decInMax := some m } }

/-- Both units in LOAD with one symbol received. -/
def loading : State := machine (unitAt .load [0x68#8] []) (unitAt .load [0x42#8] [])

/-- Both units in DRAIN with symbols left. -/
def draining : State := machine (unitAt .drain [] [0x3C#8, 0x7E#8]) (unitAt .drain [] [0x68#8])

/-- Both units in DRAIN with nothing left. -/
def drained : State := machine (unitAt .drain [] []) (unitAt .drain [] [])

/-- ENC overflowed at capacity 4, DEC refused the `v` of vector F4. -/
def faulted : State :=
  capped 4 (machine (faultEntry 2#2 0x41#8 4) (faultEntry 1#2 0x76#8 2))

/-- An edge with everything asserted. -/
def allPins : Pins :=
  { rst := true, inValid := true, inKind := 1#1, inData := 0xAB#8, outReady := true }

/-! ### WellFormed: the check refuses what no unit drives (30_encoding.md R79) -/

theorem test_wellFormed_smoke :
    ¬ (Instr.encEndOut 0x01#8).WF ∧ ¬ (Instr.decEndOut 0x01#8).WF ∧
    (Instr.encEndOut 0x00#8).WF ∧ (Instr.decEndOut 0x00#8).WF ∧ (Instr.encEnd 0xFF#8).WF := by
  decide

/-! ### Decoding: words written out from 30_encoding.md R70, R79, R80 and spec/opcode_table.json -/

theorem test_decode_beats_in :
    decode (.beatIn .enc) 0b0_01101000 = .ok (.encPush 0x68#8) ∧
    decode (.beatIn .enc) 0b1_00000001 = .ok (.encEnd 0x01#8) ∧
    decode (.beatIn .dec) 0b0_11111111 = .ok (.decPush 0xFF#8) ∧
    decode (.beatIn .dec) 0b1_10000000 = .ok (.decEnd 0x80#8) := by
  decide

theorem test_decode_beats_out :
    decode (.beatOut .enc) 0b0_00111100 = .ok (.encData 0x3C#8) ∧
    decode (.beatOut .enc) 0b1_00000000 = .ok (.encEndOut 0x00#8) ∧
    decode (.beatOut .dec) 0b0_01101000 = .ok (.decData 0x68#8) ∧
    decode (.beatOut .dec) 0b1_00000000 = .ok (.decEndOut 0x00#8) ∧
    decode (.beatOut .enc) 0b1_00000001 = .error .endOutData := by
  decide

theorem test_decode_port_and_byte :
    decode (.rst .enc) 0b1 = .ok (.reset .enc) ∧ decode (.rst .dec) 0b1 = .ok (.reset .dec) ∧
    decode (.rst .dec) 0b0 = .error .rstLow ∧ decode (.rst .dec) 0b10 = .error .tooWide ∧
    decode .byte 0b10000001 = .ok (.byte 0x81#8) ∧ decode .byte 256 = .error .tooWide ∧
    decode (.beatIn .dec) 512 = .error .tooWide ∧ decode .char 256 = .error .tooWide := by
  decide

theorem test_decode_whitespace :
    decode .char 0b00001001 = .ok .ws09 ∧ decode .char 0b00001010 = .ok (.ws0A 0#1) ∧
    decode .char 0b00001011 = .ok (.ws0A 1#1) ∧ decode .char 0b00001101 = .ok (.ws0C 1#1) ∧
    decode .char 0b00100000 = .ok .ws20 := by
  decide

theorem test_decode_digits :
    decode .char 0b00100001 = .ok .digit21 ∧ decode .char 0b00100011 = .ok (.digit22 1#1) ∧
    decode .char 0b00100110 = .ok (.digit24 0b10#2) ∧
    decode .char 0b00101011 = .ok (.digit28 0b011#3) ∧
    decode .char 0b00110111 = .ok (.digit30 0b0111#4) ∧
    decode .char 0b01010110 = .ok (.digit40 0b10110#5) ∧
    decode .char 0b01101010 = .ok (.digit60 0b1010#4) ∧
    decode .char 0b01110011 = .ok (.digit70 0b11#2) ∧
    decode .char 0b01110101 = .ok (.digit74 1#1) := by
  decide

theorem test_decode_shorthand : decode .char 0b01111010 = .ok .zsh7A := by decide

theorem test_decode_bad :
    decode .char 0b00000101 = .ok (.bad00 0b101#3) ∧ decode .char 0b00001000 = .ok .bad08 ∧
    decode .char 0b00001111 = .ok (.bad0E 1#1) ∧
    decode .char 0b00011011 = .ok (.bad10 0b1011#4) ∧
    decode .char 0b01110110 = .ok (.bad76 0#1) ∧ decode .char 0b01111001 = .ok (.bad78 1#1) ∧
    decode .char 0b01111011 = .ok .bad7B ∧ decode .char 0b01111110 = .ok (.bad7C 0b10#2) ∧
    decode .char 0b11110000 = .ok (.bad80 0b1110000#7) := by
  decide

/-- A table word placed by `withFetchWord` is the very next instruction that runs. -/
theorem test_withFetchWord :
    step (State.reset.withFetchWord 16 0x068) = exec (.encPush 0x68#8) State.reset ∧
    step (State.reset.withFetchWord 16 0x100) = exec (.encEnd 0x00#8) State.reset ∧
    step (State.reset.withFetchWord 8 0x01) = exec (.reset .enc) State.reset ∧
    step (State.reset.withFetchWord 8 0x7A) = exec .zsh7A State.reset :=
  ⟨rfl, rfl, rfl, rfl⟩

/-! ### Vectors of 95_test_vectors.md -/

/-- Vectors B8, B9, B15, B21 and B22. -/
theorem test_base_converter :
    d2i 85 [82, 23, 54, 12, 0] = 4294967295 ∧ d2i 85 [82, 23, 54, 12, 1] = 4294967296 ∧
    i2d 85 5 1751477356 = [33, 46, 84, 0, 81] ∧ i2d 256 4 4294967296 = [0, 0, 0, 0] ∧
    i2d 256 4 4437053124 = [8, 120, 14, 196] := by
  decide

/-- Vectors G2, G12, G20 and G24. -/
theorem test_grouping :
    padCount 4 1 = 3 ∧ padCount 5 4 = 1 ∧
    split 4 [0x68#8, 0x65#8, 0x6C#8, 0x6C#8, 0x6F#8, 0x00#8, 0x00#8, 0x00#8] =
      [[0x68#8, 0x65#8, 0x6C#8, 0x6C#8], [0x6F#8, 0x00#8, 0x00#8, 0x00#8]] ∧
    trim [0x42#8, 0x4F#8] 0 = [0x42#8, 0x4F#8] := by
  decide

/-- Vectors EG2 and DG4. -/
theorem test_groups :
    encGrp [0xFF#8, 0xFF#8, 0xFF#8, 0xFF#8] = [0x73#8, 0x38#8, 0x57#8, 0x2D#8, 0x21#8] ∧
    decGrp [0x75#8, 0x75#8, 0x75#8, 0x75#8, 0x75#8] = [0x08#8, 0x78#8, 0x0E#8, 0xC4#8] := by
  decide

/-- Vector L3: the five bytes of "hello" give `<~BOu!rDZ~>`. -/
theorem test_encode_hello :
    encodeMsg [0x68#8, 0x65#8, 0x6C#8, 0x6C#8, 0x6F#8] =
      [0x3C#8, 0x7E#8, 0x42#8, 0x4F#8, 0x75#8, 0x21#8, 0x72#8, 0x44#8, 0x5A#8, 0x7E#8, 0x3E#8] := by
  decide

/-- Vector E22: the shorthand across a group boundary, `<~!"z~>`. -/
theorem test_encode_shorthand_across_groups :
    encodeMsg [0x00#8, 0x09#8, 0x5E#8, 0xED#8, 0x00#8] =
      [0x3C#8, 0x7E#8, 0x21#8, 0x22#8, 0x7A#8, 0x7E#8, 0x3E#8] := by
  decide

/-- Vector D22: the shorthand inside a group, `<~BzE~>`. -/
theorem test_decode_shorthand_inside_group :
    decodeMsg [0x3C#8, 0x7E#8, 0x42#8, 0x7A#8, 0x45#8, 0x7E#8, 0x3E#8] =
      .bytes [0x66#8, 0xAD#8, 0x1A#8, 0xD1#8, 0x01#8] := by
  decide

/-- Vector F12: of two bad symbols the first is reported, at its index in the raw input. -/
theorem test_decode_first_bad_symbol :
    decodeMsg [0x3C#8, 0x7E#8, 0x42#8, 0x76#8, 0x00#8, 0x7E#8, 0x3E#8] =
      .invalidInput 0x76#8 3 := by
  decide

/-! ### Witnesses: a state and operands that meet all the hypotheses of each obligation together -/

theorem witness_DecodeOfEncode :
    (Instr.encEndOut 0x00#8).WF ∧ (Instr.decEnd 0xFF#8).WF ∧ (Instr.bad80 127#7).WF := by
  decide

theorem witness_EncodeOfDecode :
    decode .char 255 = .ok (.bad80 127#7) ∧ decode (.beatOut .dec) 255 = .ok (.decData 0xFF#8) ∧
    decode (.beatIn .dec) 511 = .ok (.decEnd 0xFF#8) := by
  decide

theorem witness_DigitCharacters :
    (0 < 85 ∧ 84 < 85) ∧ symClass 0x21#8 = .digit ∧ symClass 0x75#8 = .digit := by
  decide

theorem witness_StepRunsTheDecodedInstruction :
    ({ loading with script := [.char 0x7A#8] }.script = .char 0x7A#8 :: [] ∧
      fetch (.char 0x7A#8) { loading with script := [.char 0x7A#8] } = some (.char, 0x7A) ∧
      decode .char 0x7A = .ok .zsh7A) ∧
    ({ draining with script := [.byte 0x00#8] }.script = .byte 0x00#8 :: [] ∧
      fetch (.byte 0x00#8) { draining with script := [.byte 0x00#8] } = none) ∧
    loading.script = [] := by
  decide

theorem witness_HandshakeOfAnEdge :
    allPins.rst = true ∧
    ({ allPins with rst := false }.inValid = true ∧ (getUnit .dec loading).phase = .load) ∧
    ({ allPins with rst := false }.outReady = true ∧ (getUnit .enc draining).phase = .drain) ∧
    (idlePins.rst = false ∧ idlePins.inValid = false ∧ idlePins.outReady = false) ∧
    ((getUnit .dec faulted).phase ≠ .load ∧ (getUnit .dec faulted).phase ≠ .drain) := by
  decide

theorem witness_OfferedInstructionRuns :
    ((Instr.encEnd 0x01#8).WF ∧ ∀ u, (encode (.encEnd 0x01#8)).1 ≠ .beatOut u) ∧
    ((Instr.bad7C 3#2).WF ∧ ∀ u, (encode (.bad7C 3#2)).1 ≠ .beatOut u) :=
  ⟨⟨rfl, fun u => by cases u <;> decide⟩, ⟨rfl, fun u => by cases u <;> decide⟩⟩

/-- For TakenBeatRuns, PopDataMeaning and PopEndMeaning. -/
theorem witness_output_instructions :
    (draining.enc.phase = .drain ∧ draining.enc.obuf = 0x3C#8 :: [0x7E#8]) ∧
    (draining.dec.phase = .drain ∧ draining.dec.obuf = 0x68#8 :: []) ∧
    (drained.enc.phase = .drain ∧ drained.enc.obuf = [] ∧ LegalState drained) ∧
    (drained.dec.phase = .drain ∧ drained.dec.obuf = []) := by
  decide

/-- For PushMeaning, ByteRowMeaning and the four obligations on the CHAR rows: accepted with room for one
more symbol and with no capacity; overflow at a full buffer and at capacity 0. -/
theorem witness_input_instructions :
    (loading.enc.phase = .load ∧ loading.cfg.encInMax ≠ some loading.enc.ibuf.length) ∧
    (loading.dec.phase = .load ∧ loading.cfg.decInMax ≠ some loading.dec.ibuf.length) ∧
    ((capped 2 loading).enc.phase = .load ∧
      (capped 2 loading).cfg.encInMax ≠ some (capped 2 loading).enc.ibuf.length) ∧
    ((capped 2 loading).dec.phase = .load ∧
      (capped 2 loading).cfg.decInMax ≠ some (capped 2 loading).dec.ibuf.length) ∧
    ((capped 1 loading).enc.phase = .load ∧ (capped 1 loading).cfg.encInMax = some 1 ∧
      (capped 1 loading).enc.ibuf.length = 1) ∧
    ((capped 1 loading).dec.phase = .load ∧ (capped 1 loading).cfg.decInMax = some 1 ∧
      (capped 1 loading).dec.ibuf.length = 1) ∧
    ((capped 0 State.reset).dec.phase = .load ∧ (capped 0 State.reset).cfg.decInMax = some 0 ∧
      (capped 0 State.reset).dec.ibuf.length = 0) := by
  decide

theorem witness_EncEndMeaning :
    loading.enc.phase = .load ∧ draining.enc.phase ≠ .load ∧ faulted.enc.phase ≠ .load := by
  decide

theorem witness_DecEndMeaning :
    (loading.dec.phase = .load ∧ decodeMsg loading.dec.ibuf = .bytes []) ∧
    (unitAt .load [0x76#8] []).phase = .load ∧
    decodeMsg (unitAt .load [0x76#8] []).ibuf = .invalidInput 0x76#8 0 ∧
    draining.dec.phase ≠ .load ∧ (∀ c ∈ [0x09#8, 0x20#8], symClass c = .ws) := by
  decide

theorem witness_SymbolRowsArePushes :
    charCode .ws20 = some 0x20#8 ∧ decodeChar 0x76#8 = some (.bad76 0#1) := by
  decide

theorem witness_OneSymbolMessage :
    loading.dec.phase = .load ∧ loading.dec.ibuf = [0x42#8] ∧ symClass 0x42#8 = .digit ∧
    symClass 0x0D#8 = .ws ∧ symClass 0x7A#8 = .zsh ∧ symClass 0x7E#8 = .bad := by
  decide

theorem witness_BeatNotAccepted :
    ((encode (.encPush 0x41#8)).1 = .beatIn (unitOf (.encPush 0x41#8)) ∧
      (getUnit .enc draining).phase ≠ .load) ∧
    ((encode .ws09).1 = .char ∧ (getUnit (unitOf .ws09) faulted).phase ≠ .load) ∧
    ((encode (.decData 0x41#8)).1 = .beatOut (unitOf (.decData 0x41#8)) ∧
      (getUnit .dec loading).phase ≠ .drain) ∧
    (¬ (outValid draining.enc = true ∧ outKind draining.enc = 0#1 ∧ outData draining.enc = 0x41#8) ∧
      ¬ (outValid draining.enc = true ∧ outKind draining.enc = 1#1 ∧
        outData draining.enc = 0x00#8)) ∧
    (¬ (outValid drained.dec = true ∧ outKind drained.dec = 0#1 ∧ outData drained.dec = 0x00#8) ∧
      ¬ (outValid drained.dec = true ∧ outKind drained.dec = 1#1 ∧
        outData drained.dec = 0x01#8)) := by
  decide

theorem witness_SignalsOfTheState :
    (draining.dec.phase = .drain ∧ draining.dec.obuf = 0x68#8 :: []) ∧
    ¬ (drained.dec.phase = .drain ∧ 0 < drained.dec.obuf.length) ∧
    ¬ (loading.dec.phase = .drain ∧ 0 < loading.dec.obuf.length) := by
  decide

/-- For StepKeepsLegalStates, FaultFlagAgrees, ConfigurationIsConstant and OutputBufferNeverOverflows. -/
theorem witness_invariants :
    LegalState (capped 4 loading) ∧ LegalState faulted ∧ LegalState (capped 4 draining) ∧
    OutputBounded (capped 4 draining) ∧
    step (capped 4 draining) = .next (capped 4 draining) :=
  ⟨by decide, by decide, by decide,
    ⟨fun m h => by cases h; decide, fun m h => by cases h; decide⟩, rfl⟩

/-- For OtherUnitUntouched, InputInstructionsFrame and OutputInstructionsFrame. -/
theorem witness_frames :
    exec (.byte 0x41#8) loading =
      .next { loading with enc := unitAt .load [0x68#8, 0x41#8] [] } ∧
    (encode (.byte 0x41#8)).1 = .byte ∧
    (getUnit (unitOf (.byte 0x41#8)) { loading with enc := unitAt .load [0x68#8, 0x41#8] [] }).phase
      ≠ .fault ∧
    0 ≠ (getUnit (unitOf (.byte 0x41#8)) loading).ibuf.length ∧
    exec (.decData 0x68#8) draining =
      .next { draining with dec := unitAt .drain [] [], decTaken := [0x068#9] } ∧
    (encode (.decData 0x68#8)).1 = .beatOut (unitOf (.decData 0x68#8)) :=
  ⟨rfl, rfl, by decide, by decide, rfl, rfl⟩

theorem witness_UnitsCommute : unitOf (.encEnd 0x00#8) = .enc ∧ unitOf .zsh7A = .dec := by decide

theorem witness_FaultIsSticky :
    (getUnit .enc faulted).phase = .fault ∧ Instr.encEnd 0x00#8 ≠ .reset .enc ∧
    exec (.encEnd 0x00#8) faulted = .next faulted ∧
    (∀ p rest, faulted.script = .edge .enc p :: rest → p.rst = false) ∧
    step faulted = .next faulted :=
  ⟨rfl, by decide, rfl, fun _ _ h => (by cases h), rfl⟩

/-- The four transitions of 44_port_protocol.md R216. -/
theorem witness_PhaseChanges :
    exec (.decEnd 0x00#8) loading = .next { loading with dec := unitAt .drain [] [] } ∧
    exec (.encPush 0x41#8) (capped 1 loading) =
      .next { capped 1 loading with enc := faultEntry 2#2 0x41#8 1 } ∧
    exec (.encEndOut 0x00#8) drained =
      .next { drained with enc := UnitState.reset, encTaken := [0x100#9] } ∧
    exec (.reset .dec) faulted = .next { faulted with dec := UnitState.reset } :=
  ⟨rfl, rfl, rfl, rfl⟩

theorem witness_FaultEntry :
    (exec (.decPush 0x20#8) (capped 1 loading) =
      .next { capped 1 loading with dec := faultEntry 2#2 0x20#8 1 } ∧
      (getUnit .dec (capped 1 loading)).phase ≠ .fault) ∧
    (exec (.decEnd 0x00#8) { loading with dec := unitAt .load [0x7E#8] [] } =
      .next { loading with dec := faultEntry 1#2 0x7E#8 0 } ∧
      (unitAt .load [0x7E#8] []).phase ≠ .fault) ∧
    (faultEntry 1#2 0x7E#8 0).phase = .fault :=
  ⟨⟨rfl, by decide⟩, ⟨rfl, by decide⟩, rfl⟩

/-- For DigitsToInteger, IntegerToDigits, BaseConverterInverse and AccumulatorRanges. -/
theorem witness_base_converter :
    (∀ d ∈ [84, 84, 84, 84, 84], d < 85) ∧ [84, 84, 84, 84, 84].length = 5 ∧ (0 < 85 ∧ 2 ≤ 85) ∧
    4 < 5 ∧ 4294967295 < 256 ^ 4 ∧ check [0x21#8, 0x7A#8, 0x0A#8] 2 = none ∧
    84 ∈ (zexpand (stripw [0x75#8])).map digitValue ∧
    [0xFF#8, 0xFF#8, 0xFF#8, (0xFF#8 : Byte)].length = 4 := by
  decide

/-- For PadCountCompletesTheGroup and SplitAndTrim. -/
theorem witness_grouping :
    0 < 5 ∧ 3 < padCount 5 6 ∧ [0x21#8, 0x22#8, 0x23#8, (0x24#8 : Byte)].length % 2 = 0 ∧
    1 < [0x21#8, 0x22#8, 0x23#8, (0x24#8 : Byte)].length / 2 := by
  decide

theorem witness_DecodeGroup :
    (∀ c ∈ [0x75#8, 0x21#8, 0x75#8, 0x21#8, (0x75#8 : Byte)], symClass c = .digit) ∧
    ((0x75#8 : Byte).toNat - 33) * 85 ^ 4 + ((0x21#8 : Byte).toNat - 33) * 85 ^ 3 +
      ((0x75#8 : Byte).toNat - 33) * 85 ^ 2 + ((0x21#8 : Byte).toNat - 33) * 85 +
      ((0x75#8 : Byte).toNat - 33) = 4385459484 := by
  decide

theorem witness_GroupRoundTrip :
    [0x00#8, 0x00#8, 0x00#8, (0x01#8 : Byte)].length = 4 ∧
    encGrp [0x00#8, 0x00#8, 0x00#8, 0x01#8] = encGrp [0x00#8, 0x00#8, 0x00#8, 0x01#8] := by
  decide

/-- For ZeroShorthand, StripMarkers and InvalidInputReportsTheFirst. -/
theorem witness_text :
    (0x7A#8 : Byte) ∉ [0x21#8, 0x75#8] ∧ (0x22#8 : Byte) ≠ 0x21#8 ∧
    stripm [0x3C#8, 0x7E#8, 0x3E#8] = ([0x3E#8], 2) ∧ stripm [0x7E#8, 0x3E#8] = ([], 0) ∧
    decodeMsg [0x3C#8, 0x7E#8, 0x7B#8] = .invalidInput 0x7B#8 2 := by
  decide

/-- For DecodedLength and ShortTailRule. -/
theorem witness_tails :
    decodeMsg [0x42#8, 0x7A#8] = .bytes [0x66#8, 0xAD#8, 0x1A#8, 0xD1#8] ∧
    [0x21#8, 0x21#8, 0x21#8, 0x21#8, (0x75#8 : Byte)].length = 5 ∧
    (1 ≤ [(0x42#8 : Byte)].length ∧ [(0x42#8 : Byte)].length ≤ 4) ∧
    (1 ≤ [0x21#8, 0x21#8, 0x21#8, (0x75#8 : Byte)].length ∧
      [0x21#8, 0x21#8, 0x21#8, (0x75#8 : Byte)].length ≤ 4) := by
  decide

/-- `<~BE~>` with a line feed and spaces inserted; and a message that is refused. -/
theorem witness_WhitespaceTolerance :
    ((stripm [0x3C#8, 0x7E#8, 0x42#8, 0x45#8, 0x7E#8, 0x3E#8]).1.Sublist
        [0x20#8, 0x42#8, 0x0A#8, 0x45#8, 0x20#8] ∧
      stripw [0x20#8, 0x42#8, 0x0A#8, 0x45#8, 0x20#8] =
        stripw (stripm [0x3C#8, 0x7E#8, 0x42#8, 0x45#8, 0x7E#8, 0x3E#8]).1 ∧
      decodeMsg [0x3C#8, 0x7E#8, 0x42#8, 0x45#8, 0x7E#8, 0x3E#8] = .bytes [0x68#8]) ∧
    ((stripm [0x76#8]).1.Sublist [0x09#8, 0x76#8] ∧
      stripw [0x09#8, 0x76#8] = stripw (stripm [0x76#8]).1 ∧
      decodeMsg [0x76#8] = .invalidInput 0x76#8 0) := by
  decide

theorem witness_MarkersAreOptional :
    (∀ c ∈ [(0x3C#8 : Byte)], symClass c ≠ .bad) ∧
    (∀ c ∈ [0x3E#8, (0x7A#8 : Byte)], symClass c ≠ .bad) := by
  decide

/-- The machine at reset with capacity 1 and the drives of one one-byte message. -/
def encodeRunStart : State :=
  { capped 1 State.reset with
    script := sendMsg .enc [0x68#8] ++ takeMsg .enc (encodeMsg [0x68#8]).length ++ [] }

theorem witness_EncodeRun :
    encodeRunStart.enc = UnitState.reset ∧
    withinMax encodeRunStart.cfg.encInMax [(0x68#8 : Byte)].length = true ∧
    encodeRunStart.script =
      sendMsg .enc [0x68#8] ++ takeMsg .enc (encodeMsg [0x68#8]).length ++ [] := by
  decide

/-- The machine at reset with the drives that decode `BE`. -/
def decodeRunStart : State :=
  { State.reset with script := sendMsg .dec [0x42#8, 0x45#8] ++ takeMsg .dec 1 ++ [] }

theorem witness_DecodeRun :
    (decodeRunStart.dec = UnitState.reset ∧ withinMax decodeRunStart.cfg.decInMax 2 = true ∧
      decodeMsg [0x42#8, 0x45#8] = .bytes [0x68#8] ∧
      decodeRunStart.script = sendMsg .dec [0x42#8, 0x45#8] ++ takeMsg .dec [0x68#8].length ++ []) ∧
    (decodeMsg [0x76#8] = .invalidInput 0x76#8 0 ∧
      { capped 1 State.reset with script := sendMsg .dec [0x76#8] }.dec = UnitState.reset ∧
      withinMax (capped 1 State.reset).cfg.decInMax [(0x76#8 : Byte)].length = true) := by
  decide

end Sys2Proof.Tests
end

section
/-! PROOFS of the statements about the state and its invariant (10_state.md): the laws of legal records,
what an instruction of one unit leaves alone, and the obligations that follow from them. -/

namespace Sys2Proof.Machine

/-! legal records, phase by phase -/

theorem noFaultRecord_iff (x : UnitState) :
    noFaultRecord x = true ↔ x.err = errNone ∧ x.errSym = 0x00#8 ∧ x.errIdx = 0 := by
  simp [noFaultRecord, and_assoc]

theorem faultRecordLegal_iff (u : UnitId) (max : Option Nat) (x : UnitState) :
    faultRecordLegal u max x = true ↔
      (x.err = errBufferOverflow ∧ max = some x.errIdx) ∨
      (u = .dec ∧ x.err = errInvalidInput ∧ symClass x.errSym = .bad ∧
        withinMax max x.errIdx = true) := by
  simp [faultRecordLegal, and_assoc]

theorem unitLegal_load_iff {u : UnitId} {max : Option Nat} {x : UnitState} (h : x.phase = .load) :
    unitLegal u max x = true ↔
      noFaultRecord x = true ∧ x.obuf = [] ∧ withinMax max x.ibuf.length = true := by
  simp [unitLegal, h, and_assoc]

theorem unitLegal_drain_iff {u : UnitId} {max : Option Nat} {x : UnitState}
    (h : x.phase = .drain) :
    unitLegal u max x = true ↔ noFaultRecord x = true ∧ x.ibuf = [] := by
  simp [unitLegal, h]

theorem unitLegal_fault_iff {u : UnitId} {max : Option Nat} {x : UnitState}
    (h : x.phase = .fault) :
    unitLegal u max x = true ↔
      x.ibuf = [] ∧ x.obuf = [] ∧ faultRecordLegal u max x = true := by
  simp [unitLegal, h, and_assoc]

theorem unitLegal_reset (u : UnitId) (max : Option Nat) : unitLegal u max UnitState.reset = true :=
  (unitLegal_load_iff rfl).mpr ⟨rfl, rfl, withinMax_zero max⟩

/-- A fault entry is a legal record when its cause, symbol and index are. -/
theorem unitLegal_faultEntry {u : UnitId} {max : Option Nat} {code : BitVec 2} {sym : Byte}
    {idx : Nat} (h : faultRecordLegal u max (faultEntry code sym idx) = true) :
    unitLegal u max (faultEntry code sym idx) = true :=
  (unitLegal_fault_iff rfl).mpr ⟨rfl, rfl, h⟩

/-! what DECODE reports when it finds a symbol of class BAD -/

theorem withinMax_of_le {max : Option Nat} {m n : Nat} (h : withinMax max n = true) (hmn : m ≤ n) :
    withinMax max m = true := by
  cases max with
  | none => rfl
  | some k => exact withinMax_some.mpr (hmn.trans (withinMax_some.mp h))

/-- CHECK reports a symbol of class BAD, at an index inside the scanned text. -/
theorem check_eq_some {t : List Byte} {a : Nat} {sym : Byte} {idx : Nat}
    (h : check t a = some (sym, idx)) : symClass sym = .bad ∧ idx < a + t.length := by
  induction t generalizing a with
  | nil => cases h
  | cons c t ih =>
    by_cases hc : symClass c = .bad
    · rw [check_cons_bad hc] at h
      cases h
      exact ⟨hc, by simp⟩
    · rw [check_cons_ok hc] at h
      obtain ⟨hbad, hlt⟩ := ih h
      exact ⟨hbad, by rw [List.length_cons]; omega⟩

theorem openLen_le_length (s : List Byte) : openLen s ≤ s.length := by
  unfold openLen
  split
  · next h =>
    have hl := congrArg List.length h
    rw [List.length_take] at hl
    have : openMarker.length = 2 := rfl
    omega
  · exact Nat.zero_le _

/-- The text STRIPM keeps lies inside the message, behind the symbols it removed at the front. -/
theorem stripm_le_length (s : List Byte) : (stripm s).2 + (stripm s).1.length ≤ s.length := by
  have := openLen_le_length s
  simp only [stripm, List.length_take, List.length_drop]
  omega

theorem decodeMsg_eq_invalidInput {s : List Byte} {sym : Byte} {idx : Nat}
    (h : decodeMsg s = .invalidInput sym idx) : check (stripm s).1 (stripm s).2 = some (sym, idx) := by
  simp only [decodeMsg] at h
  split at h
  · next hc => cases h; exact hc
  · cases h

/-- The fault of DECODE names a symbol of class BAD, at an index of the message. -/
theorem decodeMsg_invalidInput_bad {s : List Byte} {sym : Byte} {idx : Nat}
    (h : decodeMsg s = .invalidInput sym idx) : symClass sym = .bad ∧ idx < s.length := by
  obtain ⟨hbad, hlt⟩ := check_eq_some (decodeMsg_eq_invalidInput h)
  exact ⟨hbad, hlt.trans_le (stripm_le_length s)⟩

/-! the operations on a unit's record keep it legal -/

theorem pushUnit_legal {u : UnitId} {max : Option Nat} {v : Byte} {x : UnitState}
    (h : unitLegal u max x = true) : unitLegal u max (pushUnit max v x) = true := by
  rcases pushUnit_cases max v x with ⟨_, e⟩ | ⟨hp, hm, e⟩ | ⟨_, hm, e⟩ <;> rw [e]
  · exact h
  · obtain ⟨hf, ho, hi⟩ := (unitLegal_load_iff hp).mp h
    refine (unitLegal_load_iff (by exact hp)).mpr ⟨hf, ho, ?_⟩
    simpa using withinMax_succ hi hm
  · exact unitLegal_faultEntry ((faultRecordLegal_iff ..).mpr (.inl ⟨rfl, hm⟩))

theorem endEnc_legal {max : Option Nat} {x : UnitState} (h : unitLegal .enc max x = true) :
    unitLegal .enc max (endEnc x) = true := by
  rcases endEnc_cases x with ⟨_, e⟩ | ⟨hp, e⟩ <;> rw [e]
  · exact h
  · obtain ⟨hf, _, _⟩ := (unitLegal_load_iff hp).mp h
    exact (unitLegal_drain_iff rfl).mpr ⟨hf, rfl⟩

theorem endDec_legal {max : Option Nat} {x : UnitState} (h : unitLegal .dec max x = true) :
    unitLegal .dec max (endDec x) = true := by
  rcases endDec_cases x with ⟨_, e⟩ | ⟨b, hp, _, e⟩ | ⟨sym, idx, hp, hd, e⟩ <;> rw [e]
  · exact h
  · obtain ⟨hf, _, _⟩ := (unitLegal_load_iff hp).mp h
    exact (unitLegal_drain_iff rfl).mpr ⟨hf, rfl⟩
  · obtain ⟨_, _, hi⟩ := (unitLegal_load_iff hp).mp h
    obtain ⟨hbad, hlt⟩ := decodeMsg_invalidInput_bad hd
    exact unitLegal_faultEntry
      ((faultRecordLegal_iff ..).mpr (.inr ⟨rfl, rfl, hbad, withinMax_of_le hi hlt.le⟩))

/-- Handing out symbols in DRAIN keeps the record legal. -/
theorem unitLegal_drain_obuf {u : UnitId} {max : Option Nat} {x : UnitState} (hp : x.phase = .drain)
    (h : unitLegal u max x = true) (rest : List Byte) :
    unitLegal u max { x with obuf := rest } = true :=
  (unitLegal_drain_iff (by exact hp)).mpr ((unitLegal_drain_iff hp).mp h)

/-- The return from an emptied DRAIN to LOAD keeps the record legal. -/
theorem unitLegal_drain_to_load {u : UnitId} {max : Option Nat} {x : UnitState}
    (hp : x.phase = .drain) (ho : x.obuf = []) (h : unitLegal u max x = true) :
    unitLegal u max { x with phase := .load } = true := by
  obtain ⟨hf, hi⟩ := (unitLegal_drain_iff hp).mp h
  exact (unitLegal_load_iff rfl).mpr ⟨hf, ho, by simpa [hi] using withinMax_zero max⟩

/-! the operations on the machine keep both records legal -/

theorem legalState_iff (s : State) :
    LegalState s ↔ ∀ u, unitLegal u (inMax u s) (getUnit u s) = true :=
  ⟨fun h u => by cases u; exacts [h.1, h.2], fun h => ⟨h .enc, h .dec⟩⟩

theorem LegalState.unit {s : State} (h : LegalState s) (u : UnitId) :
    unitLegal u (inMax u s) (getUnit u s) = true := (legalState_iff s).mp h u

theorem setUnit_legal {u : UnitId} {x : UnitState} {s : State} (h : LegalState s)
    (hx : unitLegal u (inMax u s) x = true) : LegalState (setUnit u x s) := by
  cases u
  · exact ⟨hx, h.2⟩
  · exact ⟨h.1, hx⟩

theorem deliver_legal {u : UnitId} {b : Beat} {s : State} (h : LegalState s) :
    LegalState (deliver u b s) := by
  cases u <;> exact h

theorem popData_legal {u : UnitId} {v : Byte} {s : State} (h : LegalState s) :
    LegalState (popData u v s) := by
  rcases popData_cases u v s with ⟨_, e⟩ | ⟨rest, hp, _, e⟩ <;> rw [e]
  · exact h
  · exact deliver_legal (setUnit_legal h (unitLegal_drain_obuf hp (h.unit u) rest))

theorem popEnd_legal {u : UnitId} {d : Byte} {s : State} (h : LegalState s) :
    LegalState (popEnd u d s) := by
  rcases popEnd_cases u d s with ⟨_, e⟩ | ⟨hp, ho, _, e⟩ <;> rw [e]
  · exact h
  · exact deliver_legal (setUnit_legal h (unitLegal_drain_to_load hp ho (h.unit u)))

/-- Every instruction keeps both units in legal records. -/
theorem ExecEffect.legal {i : Instr} {s t : State} (e : ExecEffect i s t) (h : LegalState s) :
    LegalState t := by
  cases e with
  | push => exact setUnit_legal h (pushUnit_legal (h.unit _))
  | encEnd => exact setUnit_legal h (endEnc_legal h.1)
  | decEnd => exact setUnit_legal h (endDec_legal h.2)
  | popData => exact popData_legal h
  | popEnd => exact popEnd_legal h
  | reset u => exact setUnit_legal h (unitLegal_reset u _)

/-- The script is no part of a legal record. -/
theorem dropDrive_legal {s : State} (h : LegalState s) : LegalState (dropDrive s) := h

/-! the fault indication of a legal record (10_state.md R27, R28) -/

/-- What the fault fields of a legal record can be: all zero outside FAULT, a recorded cause in it. -/
theorem unitLegal_fault_fields {u : UnitId} {max : Option Nat} {x : UnitState}
    (h : unitLegal u max x = true) :
    (x.phase ≠ .fault ∧ x.err = errNone ∧ x.errSym = 0x00#8 ∧ x.errIdx = 0) ∨
    (x.phase = .fault ∧ x.err = errBufferOverflow) ∨
    (x.phase = .fault ∧ x.err = errInvalidInput ∧ u = .dec) := by
  cases hp : x.phase with
  | load =>
    obtain ⟨hf, _, _⟩ := (unitLegal_load_iff hp).mp h
    exact .inl ⟨by decide, (noFaultRecord_iff x).mp hf⟩
  | drain =>
    obtain ⟨hf, _⟩ := (unitLegal_drain_iff hp).mp h
    exact .inl ⟨by decide, (noFaultRecord_iff x).mp hf⟩
  | fault =>
    obtain ⟨_, _, hf⟩ := (unitLegal_fault_iff hp).mp h
    rcases (faultRecordLegal_iff u max x).mp hf with ⟨he, _⟩ | ⟨hu, he, _, _⟩
    · exact .inr (.inl ⟨rfl, he⟩)
    · exact .inr (.inr ⟨rfl, he, hu⟩)

theorem unitLegal_fault_iff_err_ne {u : UnitId} {max : Option Nat} {x : UnitState}
    (h : unitLegal u max x = true) : x.phase = .fault ↔ x.err ≠ errNone := by
  rcases unitLegal_fault_fields h with ⟨hp, he, _, _⟩ | ⟨hp, he⟩ | ⟨hp, he, _⟩
  · simp [hp, he]
  · simp [hp, he, errBufferOverflow, errNone]
  · simp [hp, he, errInvalidInput, errNone]

theorem unitLegal_err_ne_three {u : UnitId} {max : Option Nat} {x : UnitState}
    (h : unitLegal u max x = true) : x.err ≠ 3#2 := by
  rcases unitLegal_fault_fields h with ⟨_, he, _, _⟩ | ⟨_, he⟩ | ⟨_, he, _⟩ <;> rw [he] <;> decide

theorem unitLegal_fields_of_err_zero {u : UnitId} {max : Option Nat} {x : UnitState}
    (h : unitLegal u max x = true) (h0 : x.err = errNone) : x.errSym = 0x00#8 ∧ x.errIdx = 0 := by
  rcases unitLegal_fault_fields h with ⟨_, _, hs, hi⟩ | ⟨hp, _⟩ | ⟨hp, _, _⟩
  · exact ⟨hs, hi⟩
  · exact absurd h0 ((unitLegal_fault_iff_err_ne h).mp hp)
  · exact absurd h0 ((unitLegal_fault_iff_err_ne h).mp hp)

/-- ENC has no symbol out of an alphabet, so it never records `InvalidInput` (60_exceptions.md R230). -/
theorem unitLegal_enc_err_ne_invalidInput {max : Option Nat} {x : UnitState}
    (h : unitLegal .enc max x = true) : x.err ≠ errInvalidInput := by
  rcases unitLegal_fault_fields h with ⟨_, he, _, _⟩ | ⟨_, he⟩ | ⟨_, _, hu⟩
  · rw [he]; decide
  · rw [he]; decide
  · cases hu

/-! the frame between the units, and what the host receives -/

/-- An instruction stays inside its unit (10_state.md R20, R21). -/
theorem ExecEffect.sameOutside {i : Instr} {s t : State} (e : ExecEffect i s t) :
    SameOutside (unitOf i) s t := by
  cases e with
  | push => exact push_sameOutside _ _ s
  | encEnd => exact setUnit_sameOutside .enc _ s
  | decEnd => exact setUnit_sameOutside .dec _ s
  | popData => exact popData_sameOutside _ _ s
  | popEnd => exact popEnd_sameOutside _ _ s
  | reset u => exact setUnit_sameOutside u _ s

theorem takenFrom_popData (u : UnitId) (v : Byte) (s : State) :
    ∃ bs, bs.length ≤ 1 ∧ takenFrom u (popData u v s) = takenFrom u s ++ bs := by
  rcases popData_cases u v s with ⟨_, e⟩ | ⟨_, _, _, e⟩ <;> rw [e]
  · exact ⟨[], by simp⟩
  · exact ⟨[dataBeat v], by simp⟩

theorem takenFrom_popEnd (u : UnitId) (d : Byte) (s : State) :
    ∃ bs, bs.length ≤ 1 ∧ takenFrom u (popEnd u d s) = takenFrom u s ++ bs := by
  rcases popEnd_cases u d s with ⟨_, e⟩ | ⟨_, _, _, e⟩ <;> rw [e]
  · exact ⟨[], by simp⟩
  · exact ⟨[endBeat], by simp⟩

theorem takenFrom_setUnit_append (u v : UnitId) (x : UnitState) (s : State) :
    ∃ bs, bs.length ≤ 1 ∧ takenFrom v (setUnit u x s) = takenFrom v s ++ bs :=
  ⟨[], by simp⟩

/-- An instruction hands the host at most one beat more of its unit. -/
theorem ExecEffect.takenFrom_append {i : Instr} {s t : State} (e : ExecEffect i s t) :
    ∃ bs, bs.length ≤ 1 ∧ takenFrom (unitOf i) t = takenFrom (unitOf i) s ++ bs := by
  cases e with
  | push => exact takenFrom_setUnit_append ..
  | encEnd => exact takenFrom_setUnit_append ..
  | decEnd => exact takenFrom_setUnit_append ..
  | popData => exact takenFrom_popData ..
  | popEnd => exact takenFrom_popEnd ..
  | reset => exact takenFrom_setUnit_append ..

/-- A step keeps the parameters and hands the host at most one beat more, of one of the units. -/
theorem step_cfg_taken {s t : State} (h : step s = .next t) :
    t.cfg = s.cfg ∧ ∃ u bs, bs.length ≤ 1 ∧ takenFrom u t = takenFrom u s ++ bs ∧
      takenFrom (otherUnit u) t = takenFrom (otherUnit u) s := by
  rcases step_cases h with ⟨_, rfl⟩ | ⟨_, _, _, _, rfl⟩ | ⟨_, _, _, _, i, _, _, _, hx⟩
  · exact ⟨rfl, .enc, [], by simp⟩
  · exact ⟨rfl, .enc, [], by simp⟩
  · have he := exec_effect hx
    obtain ⟨hcfg, _, _, hother⟩ := he.sameOutside
    obtain ⟨bs, hlen, hown⟩ := he.takenFrom_append
    exact ⟨hcfg, unitOf i, bs, hlen, by simpa using hown, by simpa using hother⟩

/-! the obligations -/

/-- Settles O27: a step is at most one instruction, and the operation of each keeps a legal record
legal. -/
theorem stepKeepsLegalStates : Obligations.StepKeepsLegalStates := by
  intro s t hs h
  rcases step_cases h with ⟨_, rfl⟩ | ⟨_, _, _, _, rfl⟩ | ⟨_, _, _, _, _, _, _, _, hx⟩
  · exact hs
  · exact dropDrive_legal hs
  · exact (exec_effect hx).legal (dropDrive_legal hs)

/-- Settles O29, from the fault fields a legal record can have. -/
theorem faultFlagAgrees : Obligations.FaultFlagAgrees := by
  intro s u hs
  have hu := hs.unit u
  exact ⟨unitLegal_fault_iff_err_ne hu, unitLegal_err_ne_three hu, unitLegal_fields_of_err_zero hu,
    unitLegal_enc_err_ne_invalidInput hs.1⟩

/-- Settles O31: one unit's list of delivered beats grows by at most one, the other's stays. -/
theorem configurationIsConstant : Obligations.ConfigurationIsConstant := by
  intro s t h
  obtain ⟨hcfg, u, bs, hlen, hown, hother⟩ := step_cfg_taken h
  cases u with
  | enc =>
    replace hown : t.encTaken = s.encTaken ++ bs := hown
    replace hother : t.decTaken = s.decTaken := hother
    rw [hown, hother, List.length_append]
    exact ⟨hcfg, List.prefix_append _ _, List.prefix_refl _, by omega⟩
  | dec =>
    replace hown : t.decTaken = s.decTaken ++ bs := hown
    replace hother : t.encTaken = s.encTaken := hother
    rw [hown, hother, List.length_append]
    exact ⟨hcfg, List.prefix_refl _, List.prefix_append _ _, by omega⟩

/-- Settles O32: every operation an instruction performs writes its own unit only. -/
theorem otherUnitUntouched : Obligations.OtherUnitUntouched :=
  fun _ _ _ h => (exec_effect h).sameOutside

/-- Settles O17: reset writes each field of both units, whatever the capacities. -/
theorem resetState : Obligations.ResetState := by
  refine fun c => ⟨fun u => ?_, rfl, rfl⟩
  cases u <;> exact ⟨rfl, rfl, rfl, rfl, rfl, rfl⟩

/-- Settles O26: each signal is read off the phase and the output buffer. -/
theorem signalsOfTheState : Obligations.SignalsOfTheState := by
  intro x
  refine ⟨by simp [inReady], by simp [outValid], by simp [faultOut],
    by simp [outKind, List.length_eq_zero_iff], ?_, ?_, rfl, rfl, rfl⟩
  · intro v rest hp ho
    simp [outData, hp, ho]
  · intro h
    by_cases hp : x.phase = .drain
    · have ho : x.obuf = [] := by
        by_contra hne
        exact h ⟨hp, List.length_pos_iff.mpr hne⟩
      simp [outData, ho]
    · simp [outData, hp]

/-- Settles O28: the reset record is legal and its output buffer is empty. -/
theorem resetIsLegal : Obligations.ResetIsLegal :=
  fun _ => ⟨⟨unitLegal_reset .enc _, unitLegal_reset .dec _⟩,
    fun _ _ => Nat.zero_le _, fun _ _ => Nat.zero_le _⟩

end Sys2Proof.Machine
end

section
/-! PROOFS of the statements about the memory (20_memory.md): the length laws of the datapath and
the bound on the output buffers that follows from them, and the independence of the two units. -/

namespace Sys2Proof.Machine

/-! lengths through the datapath (41_grouping_padding.md R127) -/

theorem length_i2d (r w v : Nat) : (i2d r w v).length = w := by
  induction w generalizing v with
  | zero => rfl
  | succ w ih => rw [i2d_succ, List.length_append, ih, List.length_singleton]

theorem length_encGrp (g : List Byte) : (encGrp g).length = 5 := by
  rw [encGrp, List.length_map, length_i2d]

theorem length_decGrp (g : List Byte) : (decGrp g).length = 4 := by
  rw [decGrp, List.length_map, length_i2d]

theorem length_pad (s : List Byte) (k : Nat) (v : Byte) : (pad s k v).length = s.length + k := by
  rw [pad, List.length_append, List.length_replicate]

theorem length_split (w : Nat) (s : List Byte) : (split w s).length = s.length / w := by
  rw [split, List.length_map, List.length_range]

theorem length_trim (s : List Byte) (k : Nat) : (trim s k).length = s.length - k := by
  rw [trim_eq_take, List.length_take, Nat.min_eq_left (Nat.sub_le ..)]

/-- Converting every group to `n` symbols gives `n` symbols for each group. -/
theorem length_flatten_map_split {f : List Byte → List Byte} {n : Nat}
    (hf : ∀ g, (f g).length = n) (w : Nat) (s : List Byte) :
    ((split w s).map f).flatten.length = s.length / w * n := by
  have hl : ∀ k ∈ ((split w s).map f).map List.length, k = n := by simp [hf]
  rw [List.length_flatten, List.sum_eq_card_nsmul _ n hl, smul_eq_mul, List.length_map,
    List.length_map, length_split]

theorem length_coreString (b : List Byte) :
    (coreString b).length = b.length + (b.length + 3) / 4 := by
  rw [coreString, length_trim, length_flatten_map_split length_encGrp, length_pad]
  simp only [padCount, groupBytes]
  omega

theorem length_decodeDigits (e : List Byte) :
    (decodeDigits e).length = e.length - (e.length + 4) / 5 := by
  rw [decodeDigits, length_trim, length_flatten_map_split length_decGrp, length_pad]
  simp only [padCount, groupChars]
  omega

/-- ZPACK writes at most one symbol for each one it reads. -/
theorem length_zpackScan_le (skip : Nat) (s : List Byte) :
    (zpackScan skip s).length ≤ s.length := by
  induction s generalizing skip with
  | nil => rw [zpackScan_nil]
  | cons c rest ih =>
    cases skip with
    | zero =>
      rw [zpackScan]
      split
      · exact Nat.succ_le_succ (ih 4)
      · exact Nat.succ_le_succ (ih 0)
    | succ skip => exact (ih skip).trans (Nat.le_succ _)

theorem length_encodeMsg_le (b : List Byte) : (encodeMsg b).length ≤ outBound .enc b.length := by
  have hz : (zpack (coreString b)).length ≤ b.length + (b.length + 3) / 4 :=
    length_coreString b ▸ length_zpackScan_le 0 _
  simp only [encodeMsg, wrap, openMarker, closeMarker, outBound, List.length_append,
    List.length_cons, List.length_nil]
  omega

theorem length_zexpand (u : List Byte) : (zexpand u).length = u.length + 4 * u.count zChar := by
  induction u with
  | nil => rfl
  | cons c u ih =>
    rw [zexpand_cons, List.length_append, ih, List.length_cons]
    by_cases hc : c = zChar
    · rw [hc, List.count_cons_self]
      have : (zexpandSym zChar).length = 5 := rfl
      omega
    · rw [zexpandSym, if_neg hc, List.count_cons_of_ne hc, List.length_singleton]
      omega

theorem decodeMsg_eq_bytes {x b : List Byte} (h : decodeMsg x = .bytes b) :
    b = decodeDigits (zexpand (stripw (stripm x).1)) := by
  simp only [decodeMsg] at h
  split at h
  · cases h
  · cases h; rfl

/-- Every symbol of the message is at most one `z`, five digits, four bytes. -/
theorem length_decodeMsg_le {x b : List Byte} (h : decodeMsg x = .bytes b) :
    b.length ≤ outBound .dec x.length := by
  have hm := stripm_le_length x
  have hw : (stripw (stripm x).1).length ≤ (stripm x).1.length := List.length_filter_le ..
  have hz := length_zexpand (stripw (stripm x).1)
  have hc := List.count_le_length (a := zChar) (l := stripw (stripm x).1)
  rw [decodeMsg_eq_bytes h, length_decodeDigits, outBound]
  omega

/-! the bound on one output buffer (20_memory.md R51) -/

theorem outBound_mono (u : UnitId) {m n : Nat} (h : m ≤ n) : outBound u m ≤ outBound u n := by
  cases u <;> simp only [outBound] <;> omega

/-- `OutputBounded` for one unit `u` with capacity `max`. -/
def ObufBounded (u : UnitId) (max : Option Nat) (x : UnitState) : Prop :=
  ∀ m, max = some m → x.obuf.length ≤ outBound u m

theorem outputBounded_iff (s : State) :
    OutputBounded s ↔ ∀ u, ObufBounded u (inMax u s) (getUnit u s) :=
  ⟨fun h u => by cases u; exacts [h.1, h.2], fun h => ⟨h .enc, h .dec⟩⟩

theorem OutputBounded.unit {s : State} (h : OutputBounded s) (u : UnitId) :
    ObufBounded u (inMax u s) (getUnit u s) := (outputBounded_iff s).mp h u

/-- A buffer that does not grow stays within its bound. -/
theorem ObufBounded.of_le {u : UnitId} {max : Option Nat} {x y : UnitState}
    (h : ObufBounded u max x) (hy : y.obuf.length ≤ x.obuf.length) : ObufBounded u max y :=
  fun m hm => hy.trans (h m hm)

/-- An output within the bound of an input message is within the bound of the capacity that holds
the message. -/
theorem ObufBounded.of_within {u : UnitId} {max : Option Nat} {n : Nat} {y : UnitState}
    (hn : withinMax max n = true) (hy : y.obuf.length ≤ outBound u n) : ObufBounded u max y := by
  rintro m rfl
  exact hy.trans (outBound_mono u (withinMax_some.mp hn))

theorem length_obuf_pushUnit_le (max : Option Nat) (v : Byte) (x : UnitState) :
    (pushUnit max v x).obuf.length ≤ x.obuf.length := by
  rcases pushUnit_cases max v x with ⟨_, e⟩ | ⟨_, _, e⟩ | ⟨_, _, e⟩ <;> rw [e]
  exact Nat.zero_le _

theorem endEnc_obufBounded {max : Option Nat} {x : UnitState} (hx : unitLegal .enc max x = true)
    (h : ObufBounded .enc max x) : ObufBounded .enc max (endEnc x) := by
  rcases endEnc_cases x with ⟨_, e⟩ | ⟨hp, e⟩ <;> rw [e]
  · exact h
  · obtain ⟨_, _, hi⟩ := (unitLegal_load_iff hp).mp hx
    exact .of_within hi (length_encodeMsg_le _)

theorem endDec_obufBounded {max : Option Nat} {x : UnitState} (hx : unitLegal .dec max x = true)
    (h : ObufBounded .dec max x) : ObufBounded .dec max (endDec x) := by
  rcases endDec_cases x with ⟨_, e⟩ | ⟨b, hp, hd, e⟩ | ⟨_, _, _, _, e⟩ <;> rw [e]
  · exact h
  · obtain ⟨_, _, hi⟩ := (unitLegal_load_iff hp).mp hx
    exact .of_within hi (length_decodeMsg_le hd)
  · exact h.of_le (Nat.zero_le _)

/-! the operations on the machine keep both output buffers within their bounds -/

theorem setUnit_outputBounded {u : UnitId} {x : UnitState} {s : State} (h : OutputBounded s)
    (hx : ObufBounded u (inMax u s) x) : OutputBounded (setUnit u x s) := by
  cases u
  · exact ⟨hx, h.2⟩
  · exact ⟨h.1, hx⟩

theorem deliver_outputBounded {u : UnitId} {b : Beat} {s : State} (h : OutputBounded s) :
    OutputBounded (deliver u b s) := by
  cases u <;> exact h

theorem popData_outputBounded {u : UnitId} {v : Byte} {s : State} (h : OutputBounded s) :
    OutputBounded (popData u v s) := by
  rcases popData_cases u v s with ⟨_, e⟩ | ⟨rest, _, ho, e⟩ <;> rw [e]
  · exact h
  · refine deliver_outputBounded (setUnit_outputBounded h ((h.unit u).of_le ?_))
    rw [ho]
    exact Nat.le_succ _

theorem popEnd_outputBounded {u : UnitId} {d : Byte} {s : State} (h : OutputBounded s) :
    OutputBounded (popEnd u d s) := by
  rcases popEnd_cases u d s with ⟨_, e⟩ | ⟨_, _, _, e⟩ <;> rw [e]
  · exact h
  · exact deliver_outputBounded (setUnit_outputBounded h ((h.unit u).of_le le_rfl))

/-- Every instruction keeps both output buffers within their bounds; `END` needs a legal record,
whose input buffer is within its capacity. -/
theorem ExecEffect.outputBounded {i : Instr} {s t : State} (e : ExecEffect i s t)
    (hs : LegalState s) (h : OutputBounded s) : OutputBounded t := by
  cases e with
  | push => exact setUnit_outputBounded h ((h.unit _).of_le (length_obuf_pushUnit_le ..))
  | encEnd => exact setUnit_outputBounded h (endEnc_obufBounded hs.1 h.1)
  | decEnd => exact setUnit_outputBounded h (endDec_obufBounded hs.2 h.2)
  | popData => exact popData_outputBounded h
  | popEnd => exact popEnd_outputBounded h
  | reset u => exact setUnit_outputBounded h ((h.unit u).of_le (Nat.zero_le _))

/-- The script is no part of the bounds. -/
theorem dropDrive_outputBounded {s : State} (h : OutputBounded s) : OutputBounded (dropDrive s) := h

/-- Settles O30: only `END` fills an output buffer, and by the length laws of ENCODE and DECODE it
fills it within the bound of the message it closes. -/
theorem outputBufferNeverOverflows : Obligations.OutputBufferNeverOverflows := by
  intro s t hs hb h
  rcases step_cases h with ⟨_, rfl⟩ | ⟨_, _, _, _, rfl⟩ | ⟨_, _, _, _, _, _, _, _, hx⟩
  · exact hb
  · exact dropDrive_outputBounded hb
  · exact (exec_effect hx).outputBounded (dropDrive_legal hs) (dropDrive_outputBounded hb)

/-! an instruction is an action on its own unit (10_state.md R20, R21) -/

/-- `s` and `t` agree on the parameters and on all that belongs to unit `u`. -/
structure SameUnit (u : UnitId) (s t : State) : Prop where
  cfg : t.cfg = s.cfg
  unit : getUnit u t = getUnit u s
  taken : takenFrom u t = takenFrom u s

theorem SameUnit.inMax {u : UnitId} {s t : State} (h : SameUnit u s t) :
    inMax u t = inMax u s := by
  cases u <;> simp [h.cfg]

theorem SameUnit.symm {u : UnitId} {s t : State} (h : SameUnit u s t) : SameUnit u t s :=
  ⟨h.cfg.symm, h.unit.symm, h.taken.symm⟩

theorem SameUnit.trans {u : UnitId} {s t r : State} (h : SameUnit u s t) (k : SameUnit u t r) :
    SameUnit u s r :=
  ⟨k.cfg.trans h.cfg, k.unit.trans h.unit, k.taken.trans h.taken⟩

theorem SameOutside.sameUnit {u : UnitId} {s t : State} (h : SameOutside u s t) :
    SameUnit (otherUnit u) s t := by
  obtain ⟨hcfg, _, hunit, htaken⟩ := h
  exact ⟨hcfg, hunit, htaken⟩

/-- States that agree on both units and on the script are equal. -/
theorem eq_of_sameUnit {s t : State} (he : SameUnit .enc s t) (hd : SameUnit .dec s t)
    (hs : t.script = s.script) : t = s :=
  State.ext_fields he.cfg he.unit hd.unit he.taken hd.taken hs

/-- `f` writes unit `u` only, and what it makes of `u` depends on `u` only. -/
structure ActsOn (u : UnitId) (f : State → State) : Prop where
  frame : ∀ s, SameOutside u s (f s)
  congr : ∀ {s t}, SameUnit u s t → SameUnit u (f s) (f t)

theorem SameUnit.setUnit {u : UnitId} {s t : State} (h : SameUnit u s t) (x : UnitState) :
    SameUnit u (setUnit u x s) (setUnit u x t) :=
  ⟨by simp [h.cfg], by simp, by simp [h.taken]⟩

theorem SameUnit.deliver {u : UnitId} {s t : State} (h : SameUnit u s t) (b : Beat) :
    SameUnit u (deliver u b s) (deliver u b t) :=
  ⟨by simp [h.cfg], by simp [h.unit], by simp [h.taken]⟩

/-- Writing a unit's record by a function of its capacity and its record: `PUSH`, `END`, `RESET`. -/
theorem setUnit_actsOn (u : UnitId) (f : Option Nat → UnitState → UnitState) :
    ActsOn u (fun s => setUnit u (f (inMax u s) (getUnit u s)) s) where
  frame s := setUnit_sameOutside u _ s
  congr h := by rw [h.inMax, h.unit]; exact h.setUnit _

theorem push_actsOn (u : UnitId) (v : Byte) : ActsOn u (push u v) :=
  setUnit_actsOn u (fun max => pushUnit max v)

theorem popData_actsOn (u : UnitId) (v : Byte) : ActsOn u (popData u v) where
  frame := popData_sameOutside u v
  congr {s t} h := by
    simp only [popData, h.unit]
    cases presentsData v (getUnit u s)
    · exact h
    · exact (h.setUnit _).deliver _

theorem popEnd_actsOn (u : UnitId) (d : Byte) : ActsOn u (popEnd u d) where
  frame := popEnd_sameOutside u d
  congr {s t} h := by
    simp only [popEnd, h.unit]
    cases presentsEnd d (getUnit u s)
    · exact h
    · exact (h.setUnit _).deliver _

/-- Every instruction completes in every state, as an action on its own unit. -/
theorem exec_actsOn (i : Instr) :
    ∃ f : State → State, (∀ s, exec i s = .next (f s)) ∧ ActsOn (unitOf i) f := by
  cases i
  case encEnd d => exact ⟨_, fun _ => rfl, setUnit_actsOn .enc (fun _ => endEnc)⟩
  case decEnd d => exact ⟨_, fun _ => rfl, setUnit_actsOn .dec (fun _ => endDec)⟩
  case encData v => exact ⟨_, fun _ => rfl, popData_actsOn .enc v⟩
  case decData v => exact ⟨_, fun _ => rfl, popData_actsOn .dec v⟩
  case encEndOut d => exact ⟨_, fun _ => rfl, popEnd_actsOn .enc d⟩
  case decEndOut d => exact ⟨_, fun _ => rfl, popEnd_actsOn .dec d⟩
  case reset u => exact ⟨_, fun _ => rfl, setUnit_actsOn u (fun _ _ => UnitState.reset)⟩
  all_goals exact ⟨_, fun _ => rfl, push_actsOn _ _⟩

theorem ActsOn.script {u : UnitId} {f : State → State} (hf : ActsOn u f) (s : State) :
    (f s).script = s.script := by
  obtain ⟨_, hscript, _, _⟩ := hf.frame s
  exact hscript

/-- An action on ENC and an action on DEC commute: each leaves alone what the other reads and
writes. -/
theorem ActsOn.commute {f g : State → State} (hf : ActsOn .enc f) (hg : ActsOn .dec g) (s : State) :
    g (f s) = f (g s) := by
  have henc : SameUnit .enc (f (g s)) (g (f s)) :=
    (hf.congr (hg.frame s).sameUnit.symm).trans (hg.frame (f s)).sameUnit
  have hdec : SameUnit .dec (f (g s)) (g (f s)) :=
    (hf.frame (g s)).sameUnit.symm.trans (hg.congr (hf.frame s).sameUnit)
  refine eq_of_sameUnit henc hdec ?_
  rw [hg.script, hf.script, hf.script, hg.script]

/-- Settles O35: the two instructions are actions on different units. -/
theorem unitsCommute : Obligations.UnitsCommute := by
  intro i j s hi hj
  obtain ⟨f, hfi, hf⟩ := exec_actsOn i
  obtain ⟨g, hgj, hg⟩ := exec_actsOn j
  rw [hi] at hf
  rw [hj] at hg
  exact ⟨f s, g s, g (f s), hfi s, hgj _, hgj s, hf.commute hg s ▸ hfi _⟩

end Sys2Proof.Machine
end

section
/-! PROOFS of the statements about the encoding (30_encoding.md): the decoder and the encoder lane
by lane, the symbol classes and the digit characters, the symbol rows as pushes, and the form of an
encoder output. -/

namespace Sys2Proof.Machine

/-! the fields of a beat (30_encoding.md R70, R79) -/

@[simp] theorem beatKind_mkBeat (k : BitVec 1) (v : Byte) : beatKind (mkBeat k v) = k :=
  BitVec.extractLsb'_append_eq_left

@[simp] theorem beatData_mkBeat (k : BitVec 1) (v : Byte) : beatData (mkBeat k v) = v :=
  BitVec.extractLsb'_append_eq_right

@[simp] theorem mkBeat_beatKind_beatData (b : Beat) : mkBeat (beatKind b) (beatData b) = b :=
  BitVec.extractLsb'_append_extractLsb'

/-- Every beat is a data beat or an end beat with some `data`. -/
theorem beat_cases (b : Beat) : ∃ v, b = mkBeat 0#1 v ∨ b = mkBeat 1#1 v := by
  refine ⟨beatData b, ?_⟩
  rcases BitVec.eq_zero_or_eq_one (beatKind b) with h | h
  · exact .inl (by rw [← h, mkBeat_beatKind_beatData])
  · exact .inr (by rw [← h, mkBeat_beatKind_beatData])

/-! the beat rows (30_encoding.md R80) -/

@[simp] theorem decodeBeatIn_enc_data (v : Byte) :
    decodeBeatIn .enc (mkBeat 0#1 v) = .encPush v := by simp [decodeBeatIn]
@[simp] theorem decodeBeatIn_enc_end (d : Byte) :
    decodeBeatIn .enc (mkBeat 1#1 d) = .encEnd d := by simp [decodeBeatIn]
@[simp] theorem decodeBeatIn_dec_data (v : Byte) :
    decodeBeatIn .dec (mkBeat 0#1 v) = .decPush v := by simp [decodeBeatIn]
@[simp] theorem decodeBeatIn_dec_end (d : Byte) :
    decodeBeatIn .dec (mkBeat 1#1 d) = .decEnd d := by simp [decodeBeatIn]
@[simp] theorem decodeBeatOut_enc_data (v : Byte) :
    decodeBeatOut .enc (mkBeat 0#1 v) = .encData v := by simp [decodeBeatOut]
@[simp] theorem decodeBeatOut_enc_end (d : Byte) :
    decodeBeatOut .enc (mkBeat 1#1 d) = .encEndOut d := by simp [decodeBeatOut]
@[simp] theorem decodeBeatOut_dec_data (v : Byte) :
    decodeBeatOut .dec (mkBeat 0#1 v) = .decData v := by simp [decodeBeatOut]
@[simp] theorem decodeBeatOut_dec_end (d : Byte) :
    decodeBeatOut .dec (mkBeat 1#1 d) = .decEndOut d := by simp [decodeBeatOut]

theorem encode_decodeBeatIn (u : UnitId) (b : Beat) :
    encode (decodeBeatIn u b) = (.beatIn u, b.toNat) := by
  obtain ⟨v, rfl | rfl⟩ := beat_cases b <;> cases u <;> simp [encode]

theorem encode_decodeBeatOut (u : UnitId) (b : Beat) :
    encode (decodeBeatOut u b) = (.beatOut u, b.toNat) := by
  obtain ⟨v, rfl | rfl⟩ := beat_cases b <;> cases u <;> simp [encode]

/-- Every input beat is well formed: the `data` of an input end beat is ignored. -/
theorem decodeBeatIn_wf (u : UnitId) (b : Beat) : (decodeBeatIn u b).WF := by
  obtain ⟨v, rfl | rfl⟩ := beat_cases b <;> cases u <;> simp [Instr.WF, Instr.wellFormed]

/-! the CHAR rows (30_encoding.md R90) -/

/-- Every code matches a row whose fixed bits and operand make up the code again. -/
theorem decodeChar_bind_charCode : ∀ c : Byte, (decodeChar c).bind charCode = some c := by decide

/-- The code of a CHAR row selects that row and no row before it. -/
theorem decodeChar_of_charCode {i : Instr} {c : Byte} (h : charCode i = some c) :
    decodeChar c = some i := by
  cases i <;> cases h
  case ws0A x | ws0C x | digit22 x | digit24 x | digit28 x | digit30 x | digit40 x | digit60 x
    | digit70 x | digit74 x | bad00 x | bad0E x | bad10 x | bad76 x | bad78 x | bad7C x | bad80 x =>
    revert x; decide
  all_goals rfl

/-- The CHAR decoder and the codes of the CHAR rows are inverse. -/
theorem decodeChar_eq_some_iff {i : Instr} {c : Byte} :
    decodeChar c = some i ↔ charCode i = some c :=
  ⟨fun h => by simpa [h] using decodeChar_bind_charCode c, decodeChar_of_charCode⟩

theorem encode_of_charCode {i : Instr} {c : Byte} (h : charCode i = some c) :
    encode i = (.char, c.toNat) := by
  cases i <;> cases h <;> rfl

theorem wf_of_charCode {i : Instr} {c : Byte} (h : charCode i = some c) : i.WF := by
  cases i <;> cases h <;> rfl

/-! the decoder, lane by lane: what it answers for a word that fits the lane, and what an answer
says -/

theorem decode_beatIn {u : UnitId} {b : Beat} {i : Instr} (h : decodeBeatIn u b = i) :
    decode (.beatIn u) b.toNat = .ok i := by
  simp [decode, b.isLt, h]

theorem decode_beatOut {u : UnitId} {b : Beat} {i : Instr} (h : decodeBeatOut u b = i)
    (hi : i.WF) : decode (.beatOut u) b.toNat = .ok i := by
  subst h
  simpa [decode, b.isLt] using hi

theorem decode_byte (v : Byte) : decode .byte v.toNat = .ok (.byte v) := by
  simp [decode, v.isLt]

theorem decode_char {i : Instr} {c : Byte} (h : charCode i = some c) :
    decode .char c.toNat = .ok i := by
  simp [decode, c.isLt, decodeChar_of_charCode h]

/-- A decoded instruction of an input beat is that of some beat with the word's number. -/
theorem decode_beatIn_ok {u : UnitId} {w : Nat} {i : Instr} (h : decode (.beatIn u) w = .ok i) :
    ∃ b : Beat, b.toNat = w ∧ i = decodeBeatIn u b := by
  simp only [decode] at h
  split at h
  · next hw => cases h; exact ⟨BitVec.ofNat 9 w, Nat.mod_eq_of_lt hw, rfl⟩
  · cases h

theorem decode_beatOut_ok {u : UnitId} {w : Nat} {i : Instr} (h : decode (.beatOut u) w = .ok i) :
    ∃ b : Beat, b.toNat = w ∧ i = decodeBeatOut u b ∧ i.WF := by
  simp only [decode] at h
  split at h
  · next hw =>
    split at h
    · next hwf => cases h; exact ⟨BitVec.ofNat 9 w, Nat.mod_eq_of_lt hw, rfl, hwf⟩
    · cases h
  · cases h

theorem decode_rst_ok {u : UnitId} {w : Nat} {i : Instr} (h : decode (.rst u) w = .ok i) :
    w = 1 ∧ i = .reset u := by
  simp only [decode] at h
  split at h
  · next hw => cases h; exact ⟨hw, rfl⟩
  · split at h <;> cases h

theorem decode_byte_ok {w : Nat} {i : Instr} (h : decode .byte w = .ok i) :
    ∃ v : Byte, v.toNat = w ∧ i = .byte v := by
  simp only [decode] at h
  split at h
  · next hw => cases h; exact ⟨BitVec.ofNat 8 w, Nat.mod_eq_of_lt hw, rfl⟩
  · cases h

theorem decode_char_ok {w : Nat} {i : Instr} (h : decode .char w = .ok i) :
    ∃ c : Byte, c.toNat = w ∧ charCode i = some c := by
  simp only [decode] at h
  split at h
  · next hw =>
    split at h
    · next j hj =>
      cases h
      exact ⟨BitVec.ofNat 8 w, Nat.mod_eq_of_lt hw, decodeChar_eq_some_iff.mp hj⟩
    · cases h
  · cases h

/-! the round trips -/

/-- Settles O1, row by row: the fields of a beat come back, and a code selects its own CHAR row. -/
theorem decodeOfEncode : Obligations.DecodeOfEncode := by
  intro i hi
  cases i
  case encPush v => exact decode_beatIn (decodeBeatIn_enc_data v)
  case encEnd d => exact decode_beatIn (decodeBeatIn_enc_end d)
  case decPush v => exact decode_beatIn (decodeBeatIn_dec_data v)
  case decEnd d => exact decode_beatIn (decodeBeatIn_dec_end d)
  case encData v => exact decode_beatOut (decodeBeatOut_enc_data v) hi
  case encEndOut d => exact decode_beatOut (decodeBeatOut_enc_end d) hi
  case decData v => exact decode_beatOut (decodeBeatOut_dec_data v) hi
  case decEndOut d => exact decode_beatOut (decodeBeatOut_dec_end d) hi
  case reset u => rfl
  case byte v => exact decode_byte v
  all_goals exact decode_char rfl

/-- Settles O2, lane by lane: each lane's decoder reads the instruction off the fields of the
word. -/
theorem encodeOfDecode : Obligations.EncodeOfDecode := by
  intro l w i h
  cases l with
  | beatIn u =>
    obtain ⟨b, rfl, rfl⟩ := decode_beatIn_ok h
    exact ⟨encode_decodeBeatIn u b, decodeBeatIn_wf u b⟩
  | beatOut u =>
    obtain ⟨b, rfl, rfl, hwf⟩ := decode_beatOut_ok h
    exact ⟨encode_decodeBeatOut u b, hwf⟩
  | rst u =>
    obtain ⟨rfl, rfl⟩ := decode_rst_ok h
    exact ⟨rfl, rfl⟩
  | byte =>
    obtain ⟨v, rfl, rfl⟩ := decode_byte_ok h
    exact ⟨rfl, rfl⟩
  | char =>
    obtain ⟨c, rfl, hc⟩ := decode_char_ok h
    exact ⟨encode_of_charCode hc, wf_of_charCode hc⟩

/-- Settles O3: the decoder evaluated on each of the words. -/
theorem decodedWords : Obligations.DecodedWords := by
  unfold Obligations.DecodedWords
  decide

/-! a symbol row is the push of its code (30_encoding.md R70, 44_port_protocol.md R202) -/

theorem exec_of_charCode {i : Instr} {c : Byte} (h : charCode i = some c) (s : State) :
    exec i s = exec (.decPush c) s := by
  cases i <;> cases h <;> rfl

/-- Settles O23: both rows accept their symbol by the same operation as the PUSH. -/
theorem symbolRowsArePushes : Obligations.SymbolRowsArePushes :=
  ⟨fun _ _ => rfl, fun _ _ s h => exec_of_charCode h s, fun _ _ => decodeChar_eq_some_iff.mp⟩

/-- With room in LOAD, every CHAR row appends its code to `DEC.ibuf`. -/
theorem exec_char_accepted {i : Instr} {c : Byte} (h : charCode i = some c) {s : State}
    (hp : s.dec.phase = .load) (hm : s.cfg.decInMax ≠ some s.dec.ibuf.length) :
    exec i s = .next { s with dec := { s.dec with ibuf := s.dec.ibuf ++ [c] } } := by
  rw [exec_of_charCode h]
  exact congrArg Host.Outcome.next (push_accepted (u := .dec) hp hm)

/-- Settles O18: the BYTE row is an accepted PUSH of ENC. -/
theorem byteRowMeaning : Obligations.ByteRowMeaning :=
  fun _ _ hp hm => congrArg Host.Outcome.next (push_accepted (u := .enc) hp hm)

/-- Settles O19: each WS row is a CHAR row with the code the statement writes out. -/
theorem whitespaceRowsMeaning : Obligations.WhitespaceRowsMeaning := by
  intro s hp hm
  refine ⟨?_, fun x => ?_, fun x => ?_, ?_⟩ <;> exact exec_char_accepted rfl hp hm

/-- Settles O20: each DIGIT row is a CHAR row with the code the statement writes out. -/
theorem digitRowsMeaning : Obligations.DigitRowsMeaning := by
  intro s hp hm
  refine ⟨?_, fun x => ?_, fun x => ?_, fun x => ?_, fun x => ?_, fun x => ?_, fun x => ?_,
    fun x => ?_, fun x => ?_⟩ <;> exact exec_char_accepted rfl hp hm

/-- Settles O21: the ZSH row is a CHAR row with code 0x7A. -/
theorem shorthandRowMeaning : Obligations.ShorthandRowMeaning :=
  fun _ hp hm => exec_char_accepted rfl hp hm

/-- Settles O22: each BAD row is a CHAR row with the code the statement writes out. -/
theorem badRowsMeaning : Obligations.BadRowsMeaning := by
  intro s hp hm
  refine ⟨fun x => ?_, ?_, fun x => ?_, fun x => ?_, fun x => ?_, fun x => ?_, ?_, fun x => ?_,
    fun x => ?_⟩ <;> exact exec_char_accepted rfl hp hm

/-! the symbol classes (30_encoding.md R82) and the digit characters (R71, R81) -/

theorem mem_wsSet_iff {c : Byte} :
    c ∈ wsSet ↔ (0x09 ≤ c.toNat ∧ c.toNat ≤ 0x0D) ∨ c.toNat = 0x20 := by
  simp only [wsSet, List.mem_cons, List.not_mem_nil, or_false, ← BitVec.toNat_inj,
    BitVec.toNat_ofNat]
  omega

/-- The class of a code by its ranges. -/
theorem symClass_eq_ranges (c : Byte) : symClass c =
    (if (0x09 ≤ c.toNat ∧ c.toNat ≤ 0x0D) ∨ c.toNat = 0x20 then .ws
     else if 0x21 ≤ c.toNat ∧ c.toNat ≤ 0x75 then .digit
     else if c.toNat = 0x7A then .zsh
     else .bad) := by
  have hz : c = zChar ↔ c.toNat = 0x7A := BitVec.toNat_inj.symm
  simp only [symClass, mem_wsSet_iff, hz]

theorem symClass_eq_digit_iff {c : Byte} :
    symClass c = .digit ↔ 0x21 ≤ c.toNat ∧ c.toNat ≤ 0x75 := by
  rw [symClass_eq_ranges]
  split
  · exact iff_of_false (by decide) (by omega)
  · split
    · next h => exact iff_of_true rfl h
    · next h => split <;> exact iff_of_false (by decide) h

theorem digitChar_toNat {d : Nat} (h : d < 85) : (digitChar d).toNat = d + 33 :=
  Nat.mod_eq_of_lt (by omega : d + 33 < 2 ^ 8)

theorem symClass_digitChar {d : Nat} (h : d < 85) : symClass (digitChar d) = .digit := by
  rw [symClass_eq_digit_iff, digitChar_toNat h]
  omega

theorem digitValue_digitChar {d : Nat} (h : d < 85) : digitValue (digitChar d) = d := by
  rw [digitValue, digitChar_toNat h, Nat.add_sub_cancel]

/-- A digit character is the offset above its digit, which is below the radix. -/
theorem digitValue_of_digit {c : Byte} (h : symClass c = .digit) :
    digitValue c + 33 = c.toNat ∧ digitValue c < 85 := by
  have := symClass_eq_digit_iff.mp h
  simp only [digitValue, codeOffset]
  omega

theorem digitChar_digitValue {c : Byte} (h : symClass c = .digit) :
    digitChar (digitValue c) = c := by
  obtain ⟨hv, hlt⟩ := digitValue_of_digit h
  exact BitVec.eq_of_toNat_eq ((digitChar_toNat hlt).trans hv)

/-- Settles O5: on digits and on DIGIT codes the two operand forms undo each other. -/
theorem digitCharacters : Obligations.DigitCharacters := by
  refine ⟨fun d hd => ⟨digitChar_toNat hd, symClass_digitChar hd, digitValue_digitChar hd⟩,
    fun c hc => ?_⟩
  obtain ⟨hv, hlt⟩ := digitValue_of_digit hc
  exact ⟨hv, hlt, digitChar_digitValue hc⟩

/-- No code matches two CHAR rows, and every code matches one. -/
theorem length_matching_charRows :
    ∀ c : Byte, (charRows.filter (fun r => r.matches c)).length = 1 := by decide

/-- The class spec/opcode_table.json gives the row of a code is the class of the code. -/
theorem rowClass_decodeChar : ∀ c : Byte, (decodeChar c).bind rowClass = some (symClass c) := by
  decide

/-- Settles O4: the rows and their classes are compared with the codes one by one, the ranges of
R82 are those of the definition. -/
theorem charRowsPartitionTheCodes : Obligations.CharRowsPartitionTheCodes :=
  ⟨fun c => ⟨length_matching_charRows c, rowClass_decodeChar c, symClass_eq_ranges c⟩,
    rfl, rfl, rfl, rfl⟩

/-! DECODE on a message of one symbol -/

/-- One symbol is no marker. -/
theorem stripm_singleton (c : Byte) : stripm [c] = ([c], 0) := by
  simp [stripm, openLen, closeLen, openMarker]

/-- One symbol that is not BAD decodes to the bytes of what STRIPW and ZEXPAND leave of it. -/
theorem decodeMsg_singleton {c : Byte} (h : symClass c ≠ .bad) :
    decodeMsg [c] = .bytes (decodeDigits (zexpand (stripw [c]))) := by
  simp [decodeMsg, stripm_singleton, check_cons_ok h, check_nil]

theorem decodeMsg_singleton_bad {c : Byte} (h : symClass c = .bad) :
    decodeMsg [c] = .invalidInput c 0 := by
  simp [decodeMsg, stripm_singleton, check_cons_bad h]

/-- At most one character contributes nothing. -/
theorem decodeDigits_eq_nil {e : List Byte} (h : e.length ≤ 1) : decodeDigits e = [] := by
  rw [← List.length_eq_zero_iff, length_decodeDigits]
  omega

theorem decodeMsg_singleton_ws {c : Byte} (h : symClass c = .ws) : decodeMsg [c] = .bytes [] := by
  have hs : stripw [c] = [] := by simp [stripw, h]
  rw [decodeMsg_singleton (by simp [h]), hs, decodeDigits_eq_nil (by decide)]

theorem decodeMsg_singleton_digit {c : Byte} (h : symClass c = .digit) :
    decodeMsg [c] = .bytes [] := by
  have hs : stripw [c] = [c] := by simp [stripw, h]
  have hz : zexpandSym c = [c] := if_neg (by rintro rfl; exact absurd h (by decide))
  rw [decodeMsg_singleton (by simp [h]), hs, zexpand_cons, hz,
    decodeDigits_eq_nil (by simp [zexpand])]

theorem symClass_eq_zsh {c : Byte} (h : symClass c = .zsh) : c = zChar := by
  simp only [symClass] at h
  split_ifs at h with _ _ hc
  exact hc

/-- `END` on DEC when the message decodes. -/
theorem exec_decEnd_bytes {s : State} {b : List Byte} (hp : s.dec.phase = .load)
    (h : decodeMsg s.dec.ibuf = .bytes b) (d : Byte) :
    exec (.decEnd d) s =
      .next { s with dec := { s.dec with obuf := b, ibuf := [], phase := .drain } } := by
  have he : endDec s.dec = { s.dec with obuf := b, ibuf := [], phase := .drain } := by
    simp [endDec, hp, h]
  exact congrArg (fun x => Host.Outcome.next { s with dec := x }) he

/-- `END` on DEC when the message holds a symbol of class BAD. -/
theorem exec_decEnd_invalidInput {s : State} {sym : Byte} {idx : Nat} (hp : s.dec.phase = .load)
    (h : decodeMsg s.dec.ibuf = .invalidInput sym idx) (d : Byte) :
    exec (.decEnd d) s = .next { s with dec := faultEntry errInvalidInput sym idx } := by
  have he : endDec s.dec = faultEntry errInvalidInput sym idx := by simp [endDec, hp, h]
  exact congrArg (fun x => Host.Outcome.next { s with dec := x }) he

/-- Settles O24: the message is decoded by the class of its one symbol. -/
theorem oneSymbolMessage : Obligations.OneSymbolMessage := by
  intro s c d hp hi
  refine ⟨?_, fun h => ?_, fun h => ?_⟩
  · rintro (h | h)
    · exact exec_decEnd_bytes hp (hi ▸ decodeMsg_singleton_ws h) d
    · exact exec_decEnd_bytes hp (hi ▸ decodeMsg_singleton_digit h) d
  · have hz : decodeMsg [zChar] = .bytes [0x00#8, 0x00#8, 0x00#8, 0x00#8] := by decide
    exact exec_decEnd_bytes hp (by rw [hi, symClass_eq_zsh h, hz]) d
  · exact exec_decEnd_invalidInput hp (hi ▸ decodeMsg_singleton_bad h) d

/-! the core string is digit characters (42_encoder.md R146) -/

theorem i2d_lt {r : Nat} (hr : 0 < r) (w v : Nat) : ∀ d ∈ i2d r w v, d < r := by
  induction w generalizing v with
  | zero => simp [i2d_zero]
  | succ w ih =>
    intro d hd
    rw [i2d_succ, List.mem_append, List.mem_singleton] at hd
    rcases hd with hd | rfl
    · exact ih _ d hd
    · exact Nat.mod_lt v hr

theorem encGrp_digit {g : List Byte} {c : Byte} (h : c ∈ encGrp g) : symClass c = .digit := by
  obtain ⟨d, hd, rfl⟩ := List.mem_map.mp h
  exact symClass_digitChar (i2d_lt (by decide) _ _ d hd)

theorem coreString_digit {b : List Byte} {c : Byte} (h : c ∈ coreString b) :
    symClass c = .digit := by
  rw [coreString, trim_eq_take] at h
  obtain ⟨_, hl, hc⟩ := List.mem_flatten.mp (List.mem_of_mem_take h)
  obtain ⟨g, _, rfl⟩ := List.mem_map.mp hl
  exact encGrp_digit hc

theorem zChar_not_mem_coreString (b : List Byte) : zChar ∉ coreString b :=
  fun h => absurd (coreString_digit h) (by decide)

/-! the zero shorthand (42_encoder.md R147, R148), by induction along the scan -/

/-- The scan as an induction: the empty text, a match, a symbol that is kept. -/
theorem zpack_induction {P : List Byte → Prop} (nil : P [])
    (run : ∀ s, P s → P (fiveBangs ++ s))
    (keep : ∀ c s, ¬ fiveBangs <+: c :: s → P s → P (c :: s)) (s : List Byte) : P s := by
  induction hn : s.length using Nat.strong_induction_on generalizing s with
  | _ n ih =>
    subst hn
    by_cases h : fiveBangs <+: s
    · obtain ⟨t, rfl⟩ := h
      exact run t (ih _ (by simp [fiveBangs]; omega) t rfl)
    · cases s with
      | nil => exact nil
      | cons c s => exact keep c s h (ih _ (by simp) s rfl)

theorem zpack_nil : zpack [] = [] := rfl

theorem mem_zpack {c : Byte} {s : List Byte} (h : c ∈ zpack s) : c ∈ s ∨ c = zChar := by
  induction s using zpack_induction with
  | nil => exact .inl h
  | run s ih =>
    rw [zpack_match, List.mem_cons] at h
    rcases h with rfl | h
    · exact .inr rfl
    · exact (ih h).imp_left (List.mem_append_right _)
  | keep a s hp ih =>
    rw [zpack_keep hp, List.mem_cons] at h
    rcases h with rfl | h
    · exact .inl (List.mem_cons_self ..)
    · exact (ih h).imp_left (List.mem_cons_of_mem _)

/-- ZEXPAND takes back what ZPACK did to a text without `z`. -/
theorem zexpand_zpack {s : List Byte} (h : zChar ∉ s) : zexpand (zpack s) = s := by
  induction s using zpack_induction with
  | nil => rfl
  | run s ih =>
    rw [zpack_match, zexpand_cons, ih (fun hs => h (List.mem_append_right _ hs))]
    rfl
  | keep c s hp ih =>
    obtain ⟨hc, hs⟩ := not_or.mp (mt List.mem_cons.mpr h)
    rw [zpack_keep hp, zexpand_cons, ih hs, zexpandSym, if_neg (Ne.symm hc), List.singleton_append]

/-- `!` at the front of the packed text stood at the front of the text. -/
theorem replicate_prefix_of_prefix_zpack {n : Nat} {s : List Byte}
    (h : List.replicate n bangChar <+: zpack s) : List.replicate n bangChar <+: s := by
  induction s using zpack_induction generalizing n with
  | nil => exact h
  | run s =>
    cases n with
    | zero => exact List.nil_prefix
    | succ n =>
      rw [zpack_match, List.replicate_succ, List.cons_prefix_cons] at h
      exact absurd h.1 (by decide)
  | keep c s hp ih =>
    cases n with
    | zero => exact List.nil_prefix
    | succ n =>
      rw [zpack_keep hp, List.replicate_succ, List.cons_prefix_cons] at h
      rw [List.replicate_succ, List.cons_prefix_cons]
      exact h.imp_right ih

/-- No five consecutive `!` are left. -/
theorem not_fiveBangs_infix_zpack (s : List Byte) : ¬ fiveBangs <:+: zpack s := by
  induction s using zpack_induction with
  | nil => decide
  | run s ih =>
    rw [zpack_match, List.infix_cons_iff, not_or]
    exact ⟨fun h => absurd (List.cons_prefix_cons.mp h).1 (by decide), ih⟩
  | keep c s hp ih =>
    rw [zpack_keep hp, List.infix_cons_iff, not_or, ← zpack_keep hp]
    exact ⟨fun h => hp (replicate_prefix_of_prefix_zpack h), ih⟩

theorem length_zexpand_le (u : List Byte) : (zexpand u).length ≤ 5 * u.length := by
  have := List.count_le_length (a := zChar) (l := u)
  rw [length_zexpand]
  omega

theorem length_encodeMsg (b : List Byte) :
    (encodeMsg b).length = (zpack (coreString b)).length + 4 := by
  simp [encodeMsg, wrap, openMarker, closeMarker]

/-- Settles O50: the body is the packed core string (42_encoder.md R149, R150). -/
theorem encodedForm : Obligations.EncodedForm := by
  intro b
  have hexp : zexpand (zpack (coreString b)) = coreString b :=
    zexpand_zpack (zChar_not_mem_coreString b)
  have hlen := length_coreString b
  have hmin := length_zexpand_le (zpack (coreString b))
  have hmax := length_encodeMsg_le b
  rw [hexp, hlen] at hmin
  rw [outBound] at hmax
  refine ⟨zpack (coreString b), rfl, fun c hc => (mem_zpack hc).imp_left coreString_digit,
    not_fiveBangs_infix_zpack _, by rw [hexp, hlen], ?_, by omega⟩
  rw [length_encodeMsg]
  omega

end Sys2Proof.Machine
end

section
/-! PROOFS of the statements about the base converter (40_base_converter.md): the laws of D2I and of
I2D, their inverse laws, and the round trip of one group. -/

namespace Sys2Proof.Machine

/-! the value of a digit sequence (40_base_converter.md R100, R103) -/

theorem d2i_singleton (r d : Nat) : d2i r [d] = d := by simp [d2i]

/-- The digits in front weigh as much as the places behind them. -/
theorem d2i_append_list (r : Nat) (xs ys : List Nat) :
    d2i r (xs ++ ys) = d2i r xs * r ^ ys.length + d2i r ys := by
  induction ys using List.reverseRecOn with
  | nil => simp [d2i_nil]
  | append_singleton ys d ih =>
    rw [← List.append_assoc, d2i_append, d2i_append, ih, List.length_append, List.length_singleton]
    ring

theorem d2i_cons (r d : Nat) (ds : List Nat) : d2i r (d :: ds) = d * r ^ ds.length + d2i r ds := by
  rw [← List.singleton_append, d2i_append_list, d2i_singleton]

theorem d2i_replicate_zero (r n : Nat) : d2i r (List.replicate n 0) = 0 := by
  induction n with
  | zero => rfl
  | succ n ih => rw [List.replicate_succ, d2i_cons, ih, Nat.zero_mul]

/-- The largest digit in every place: one more would need another place. -/
theorem d2i_replicate_pred {r : Nat} (hr : 0 < r) (n : Nat) :
    d2i r (List.replicate n (r - 1)) = r ^ n - 1 := by
  induction n with
  | zero => rfl
  | succ n ih =>
    have hpos : 0 < r ^ n := Nat.pow_pos hr
    have hle : r ^ n ≤ r * r ^ n := Nat.le_mul_of_pos_left _ hr
    rw [List.replicate_succ, d2i_cons, ih, List.length_replicate, Nat.sub_mul, Nat.pow_succ']
    omega

/-- Digits below the radix make a value below its power. -/
theorem d2i_lt {r : Nat} {ds : List Nat} (h : ∀ d ∈ ds, d < r) : d2i r ds < r ^ ds.length := by
  induction ds using List.reverseRecOn with
  | nil => simp [d2i_nil]
  | append_singleton ds d ih =>
    have hd : d < r := h d (by simp)
    have hds : d2i r ds < r ^ ds.length := ih fun x hx => h x (List.mem_append_left _ hx)
    rw [d2i_append, List.length_append, List.length_singleton]
    calc d2i r ds * r + d < (d2i r ds + 1) * r := by rw [Nat.succ_mul]; omega
      _ ≤ r ^ ds.length * r := Nat.mul_le_mul_right r hds
      _ = r ^ (ds.length + 1) := (Nat.pow_succ ..).symm

/-- A partial value of the fold is the value of the digits read so far. -/
theorem d2i_take_le {r : Nat} (hr : 0 < r) (k : Nat) (ds : List Nat) :
    d2i r (ds.take k) ≤ d2i r ds := by
  calc d2i r (ds.take k) ≤ d2i r (ds.take k) * r ^ (ds.drop k).length :=
        Nat.le_mul_of_pos_right _ (Nat.pow_pos hr)
    _ ≤ d2i r (ds.take k ++ ds.drop k) := by rw [d2i_append_list]; exact Nat.le_add_right ..
    _ = d2i r ds := by rw [List.take_append_drop]

/-! the digits that reach D2I are below its radix (40_base_converter.md R100) -/

theorem toNat_lt_of_mem {g : List Byte} {d : Nat} (h : d ∈ g.map BitVec.toNat) : d < 256 := by
  obtain ⟨b, -, rfl⟩ := List.mem_map.mp h
  exact b.isLt

/-- CHECK passes a text exactly when no symbol of it is of class BAD. -/
theorem check_eq_none_iff {t : List Byte} {a : Nat} :
    check t a = none ↔ ∀ c ∈ t, symClass c ≠ .bad := by
  induction t generalizing a with
  | nil => simp [check_nil]
  | cons c t ih =>
    by_cases hc : symClass c = .bad
    · simp [check_cons_bad hc, hc]
    · simp [check_cons_ok hc, hc, ih]

/-- A symbol that is neither whitespace nor BAD expands to digit characters. -/
theorem symClass_of_mem_zexpandSym {c x : Byte} (hws : symClass c ≠ .ws) (hbad : symClass c ≠ .bad)
    (h : x ∈ zexpandSym c) : symClass x = .digit := by
  unfold zexpandSym at h
  split at h
  · obtain rfl : x = bangChar := List.eq_of_mem_replicate h
    decide
  · next hz =>
    obtain rfl : x = c := List.mem_singleton.mp h
    cases hx : symClass x with
    | ws => exact absurd hx hws
    | digit => rfl
    | zsh => exact absurd (symClass_eq_zsh hx) hz
    | bad => exact absurd hx hbad

/-- After a passed CHECK, whitespace removal and expansion leave digit characters only. -/
theorem symClass_of_mem_zexpand_stripw {t : List Byte} {a : Nat} (h : check t a = none) {x : Byte}
    (hx : x ∈ zexpand (stripw t)) : symClass x = .digit := by
  obtain ⟨_, hl, hx⟩ := List.mem_flatten.mp hx
  obtain ⟨c, hc, rfl⟩ := List.mem_map.mp hl
  obtain ⟨hmem, hws⟩ := List.mem_filter.mp hc
  exact symClass_of_mem_zexpandSym (by simpa using hws) (check_eq_none_iff.mp h c hmem) hx

/-- Settles O39: the fold by its two recurrences, the guarantee by the classes of the symbols. -/
theorem digitsToInteger : Obligations.DigitsToInteger := by
  refine ⟨d2i_nil, fun r d ds => d2i_append r ds d, d2i_cons, d2i_replicate_zero,
    fun r n hr => d2i_replicate_pred hr n, rfl, rfl, fun _ _ => toNat_lt_of_mem,
    fun t a h d hd => ?_⟩
  obtain ⟨x, hx, rfl⟩ := List.mem_map.mp hd
  exact (digitValue_of_digit (symClass_of_mem_zexpand_stripw h hx)).2

/-- Four bytes fit 32 bits. -/
theorem d2i_toNat_lt {g : List Byte} (hg : g.length = 4) :
    d2i 256 (g.map BitVec.toNat) < 2 ^ 32 := by
  have h : d2i 256 (g.map BitVec.toNat) < 256 ^ (g.map BitVec.toNat).length :=
    d2i_lt fun _ => toNat_lt_of_mem
  rwa [List.length_map, hg] at h

/-- Settles O42: the bounds are `d2i_lt` at the two group forms. -/
theorem accumulatorRanges : Obligations.AccumulatorRanges :=
  ⟨fun _ hg => d2i_toNat_lt hg, fun _ hl h => hl ▸ d2i_lt h, by decide,
    fun _ k ds hr => d2i_take_le hr k ds⟩

/-! the digits of a value and the inverse laws (40_base_converter.md R101, R102, R104) -/

/-- The digit at an index is the value divided by the weight of its place, modulo the radix. -/
theorem getElem?_i2d {r w i : Nat} (v : Nat) (hi : i < w) :
    (i2d r w v)[i]? = some (v / r ^ (w - 1 - i) % r) := by
  induction w generalizing v with
  | zero => exact absurd hi (Nat.not_lt_zero i)
  | succ w ih =>
    rw [i2d_succ]
    rcases Nat.lt_succ_iff_lt_or_eq.mp hi with hlt | rfl
    · have hexp : w + 1 - 1 - i = w - 1 - i + 1 := by omega
      rw [List.getElem?_append_left (by rwa [length_i2d]), ih _ hlt, hexp, Nat.div_div_eq_div_mul,
        Nat.pow_succ']
    · rw [List.getElem?_append_right (by rw [length_i2d]), length_i2d]
      simp

/-- I2D undoes D2I on digits below the radix. -/
theorem i2d_d2i {r : Nat} {ds : List Nat} (h : ∀ d ∈ ds, d < r) :
    i2d r ds.length (d2i r ds) = ds := by
  induction ds using List.reverseRecOn with
  | nil => rfl
  | append_singleton ds d ih =>
    have hd : d < r := h d (by simp)
    have hdiv : (d2i r ds * r + d) / r = d2i r ds := by
      rw [Nat.mul_comm, Nat.mul_add_div (by omega), Nat.div_eq_of_lt hd, Nat.add_zero]
    have hmod : (d2i r ds * r + d) % r = d := by
      rw [Nat.mul_add_mod', Nat.mod_eq_of_lt hd]
    rw [List.length_append, List.length_singleton, i2d_succ, d2i_append, hdiv, hmod,
      ih fun x hx => h x (List.mem_append_left _ hx)]

/-- D2I undoes I2D up to what the width cannot hold. -/
theorem d2i_i2d (r w v : Nat) : d2i r (i2d r w v) = v % r ^ w := by
  induction w generalizing v with
  | zero => rw [i2d_zero, d2i_nil, Nat.pow_zero, Nat.mod_one]
  | succ w ih => rw [i2d_succ, d2i_append, ih, Nat.pow_succ', Nat.mod_mul]; ring

/-- The high part of a value is dropped: both sides are the digits of one value below `r ^ w`. -/
theorem i2d_mod {r : Nat} (hr : 0 < r) (w v : Nat) : i2d r w (v % r ^ w) = i2d r w v := by
  have h := i2d_d2i (i2d_lt hr w v)
  rwa [length_i2d, d2i_i2d] at h

/-- Settles O40: length, range and digits by induction on the width, the truncation by the inverse
laws. -/
theorem integerToDigits : Obligations.IntegerToDigits :=
  fun r w v hr => ⟨length_i2d r w v, i2d_lt hr w v, fun _ hi => getElem?_i2d v hi,
    (i2d_mod hr w v).symm⟩

/-- Settles O41: the two inverse laws; below `r ^ w` nothing is dropped. -/
theorem baseConverterInverse : Obligations.BaseConverterInverse :=
  ⟨fun _ _ _ h => i2d_d2i h, fun r w v _ => d2i_i2d r w v,
    fun r w v _ hv => (d2i_i2d r w v).trans (Nat.mod_eq_of_lt hv)⟩

/-! one group (40_base_converter.md R104, 43_decoder.md R177) -/

/-- The digit characters of ENCGRP have the value of the bytes: `2 ^ 32` is below `85 ^ 5`. -/
theorem d2i_encGrp {g : List Byte} (hg : g.length = 4) :
    d2i 85 ((encGrp g).map digitValue) = d2i 256 (g.map BitVec.toNat) := by
  have hdigits : (encGrp g).map digitValue = i2d 85 5 (d2i 256 (g.map BitVec.toNat)) := by
    rw [encGrp, List.map_map]
    exact (List.map_congr_left fun d hd =>
      digitValue_digitChar (i2d_lt (by decide) _ _ d hd)).trans (List.map_id _)
  have hlt : d2i 256 (g.map BitVec.toNat) < 85 ^ 5 :=
    (d2i_toNat_lt hg).trans (by decide)
  rw [hdigits, d2i_i2d, Nat.mod_eq_of_lt hlt]

theorem decGrp_encGrp {g : List Byte} (hg : g.length = 4) : decGrp (encGrp g) = g := by
  have hbytes : i2d 256 4 (d2i 256 (g.map BitVec.toNat)) = g.map BitVec.toNat := by
    have hlen : (g.map BitVec.toNat).length = 4 := by rw [List.length_map, hg]
    exact hlen ▸ i2d_d2i fun _ => toNat_lt_of_mem
  rw [decGrp, d2i_encGrp hg, hbytes, List.map_map]
  simp [Function.comp_def, byteOfDigit]

/-- Settles O47: a left inverse makes ENCGRP one-to-one, and `uuuuu` has the value `85 ^ 5 - 1`,
which no four bytes have. -/
theorem groupRoundTrip : Obligations.GroupRoundTrip := by
  refine ⟨fun g hg => decGrp_encGrp hg, fun g h hg hh e => ?_, fun g hg e => ?_⟩
  · rw [← decGrp_encGrp hg, e, decGrp_encGrp hh]
  · have hlt := d2i_toNat_lt hg
    rw [← d2i_encGrp hg, e] at hlt
    exact absurd hlt (by decide)

end Sys2Proof.Machine
end

section
/-! PROOFS of the statements about grouping and padding (41_grouping_padding.md): PADCOUNT as the one
count below the width that completes the last group, the groups of SPLIT, and TRIM after PAD. -/

namespace Sys2Proof.Machine

/-! PADCOUNT (41_grouping_padding.md R120, R126) -/

/-- The outer modulo of PADCOUNT acts only on a whole number of groups. -/
theorem padCount_eq_ite {w : Nat} (hw : 0 < w) (n : Nat) :
    padCount w n = if n % w = 0 then 0 else w - n % w := by
  unfold padCount
  split
  · next h => rw [h, Nat.sub_zero, Nat.mod_self]
  · exact Nat.mod_eq_of_lt (by omega)

theorem padCount_lt {w : Nat} (hw : 0 < w) (n : Nat) : padCount w n < w := Nat.mod_lt _ hw

/-- PADCOUNT is the only count below the width that completes the last group. -/
theorem add_mod_eq_zero_iff_eq_padCount {w k : Nat} (hk : k < w) (n : Nat) :
    (n + k) % w = 0 ↔ k = padCount w n := by
  have hw : 0 < w := Nat.zero_lt_of_lt hk
  have hr : n % w < w := Nat.mod_lt n hw
  rw [padCount_eq_ite hw, Nat.add_mod_eq_ite, Nat.mod_eq_of_lt hk]
  split <;> split <;> omega

theorem add_padCount_mod {w : Nat} (hw : 0 < w) (n : Nat) : (n + padCount w n) % w = 0 :=
  (add_mod_eq_zero_iff_eq_padCount (padCount_lt hw n) n).mpr rfl

/-- Settles O43: a smaller count that completed the group would be PADCOUNT itself. -/
theorem padCountCompletesTheGroup : Obligations.PadCountCompletesTheGroup :=
  fun _ n hw => ⟨padCount_lt hw n, add_padCount_mod hw n, fun _ hk h =>
    hk.ne ((add_mod_eq_zero_iff_eq_padCount (hk.trans (padCount_lt hw n)) n).mp h)⟩

/-! SPLIT and TRIM (41_grouping_padding.md R121 to R125) -/

theorem getElem?_split {w k : Nat} {s : List Byte} (hk : k < s.length / w) :
    (split w s)[k]? = some ((s.drop (w * k)).take w) := by
  rw [split, List.getElem?_map, List.getElem?_range hk, Option.map_some]

theorem length_of_mem_split {w : Nat} {s g : List Byte} (hg : g ∈ split w s) : g.length = w := by
  obtain ⟨k, hk, rfl⟩ := List.mem_map.mp hg
  have hend : w * k + w ≤ s.length :=
    (Nat.mul_le_mul_left w (List.mem_range.mp hk)).trans (Nat.mul_div_le ..)
  rw [List.length_take, List.length_drop]
  omega

/-- The first `n` groups, joined, are the first `w * n` symbols. -/
theorem flatten_groups (w n : Nat) (s : List Byte) :
    ((List.range n).map fun k => (s.drop (w * k)).take w).flatten = s.take (w * n) := by
  induction n with
  | zero => rfl
  | succ n ih =>
    rw [List.range_succ, List.map_append, List.flatten_append, ih, Nat.mul_succ, List.take_add]
    simp

/-- No symbol is lost when the length is a multiple of the width. -/
theorem flatten_split {w : Nat} {s : List Byte} (h : s.length % w = 0) :
    (split w s).flatten = s := by
  rw [split, flatten_groups, Nat.mul_div_cancel' (Nat.dvd_of_mod_eq_zero h), List.take_length]

theorem trim_zero (s : List Byte) : trim s 0 = s := if_pos rfl

theorem trim_pad (s : List Byte) (k : Nat) (v : Byte) : trim (pad s k v) k = s := by
  rw [trim_eq_take, length_pad, Nat.add_sub_cancel, pad, List.take_left]

theorem length_pad_padCount_mod {w : Nat} (hw : 0 < w) (s : List Byte) (v : Byte) :
    (pad s (padCount w s.length) v).length % w = 0 := by
  rw [length_pad, add_padCount_mod hw]

/-- Settles O44: a padded sequence is a whole number of groups, so SPLIT loses none of it. -/
theorem splitAndTrim : Obligations.SplitAndTrim :=
  ⟨fun w s v hw => ⟨by rw [length_split, length_pad], fun _ => length_of_mem_split,
      flatten_split (length_pad_padCount_mod hw s v)⟩,
    fun _ _ _ _ _ hk => getElem?_split hk, trim_zero, trim_pad⟩

/-! the length of a decoder output (41_grouping_padding.md R127) -/

/-- Settles O54: the bytes are those of `decodeDigits`, whose length law is `length_decodeDigits`. -/
theorem decodedLength : Obligations.DecodedLength :=
  fun _ _ h => (congrArg List.length (decodeMsg_eq_bytes h)).trans (length_decodeDigits _)

end Sys2Proof.Machine
end

section
/-! PROOFS of the statements about the encoder (42_encoder.md): the five characters of one byte
group, the core string, and the zero shorthand on a run of `!`. -/

namespace Sys2Proof.Machine

/-! one group (42_encoder.md R143) -/

theorem d2i_four_bytes (b0 b1 b2 b3 : Byte) :
    d2i 256 ([b0, b1, b2, b3].map BitVec.toNat) =
      b0.toNat * 2 ^ 24 + b1.toNat * 2 ^ 16 + b2.toNat * 2 ^ 8 + b3.toNat := by
  simp [d2i_cons, d2i_nil, Nat.add_assoc]

theorem i2d_five (r v : Nat) :
    i2d r 5 v = [v / r ^ 4 % r, v / r ^ 3 % r, v / r ^ 2 % r, v / r % r, v % r] := by
  simp [i2d_succ, i2d_zero, Nat.div_div_eq_div_mul, Nat.pow_succ]

/-- The five characters of ENCGRP, by the value of the group. -/
theorem encGrp_of_value {g : List Byte} {n : Nat} (h : d2i 256 (g.map BitVec.toNat) = n) :
    encGrp g = [digitChar (n / 85 ^ 4 % 85), digitChar (n / 85 ^ 3 % 85),
      digitChar (n / 85 ^ 2 % 85), digitChar (n / 85 % 85), digitChar (n % 85)] := by
  rw [encGrp, h, i2d_five]
  rfl

/-- The code of a base-85 digit. -/
theorem digitChar_mod_toNat (v : Nat) : (digitChar (v % 85)).toNat = v % 85 + 33 :=
  digitChar_toNat (Nat.mod_lt v (by decide))

/-- Settles O45: the characters are the five base-85 digits of the value of the bytes, and
`2 ^ 32 / 85 ^ 4` is 82, so the first character is at most `0x73`. -/
theorem encodeGroup : Obligations.EncodeGroup := by
  intro b0 b1 b2 b3
  have hn := d2i_four_bytes b0 b1 b2 b3
  have henc := encGrp_of_value hn
  have hlt : b0.toNat * 2 ^ 24 + b1.toNat * 2 ^ 16 + b2.toNat * 2 ^ 8 + b3.toNat < 2 ^ 32 :=
    hn ▸ d2i_toNat_lt rfl
  generalize b0.toNat * 2 ^ 24 + b1.toNat * 2 ^ 16 + b2.toNat * 2 ^ 8 + b3.toNat = n at *
  refine ⟨_, _, _, _, _, henc, digitChar_mod_toNat _, digitChar_mod_toNat _,
    digitChar_mod_toNat _, digitChar_mod_toNat _, digitChar_mod_toNat _, fun c hc => ?_, ?_⟩
  · rw [← henc] at hc
    exact symClass_eq_digit_iff.mp (encGrp_digit hc)
  · rw [digitChar_mod_toNat]
    omega

/-! the core string (42_encoder.md R146) -/

/-- Settles O48: the length law of the padded, converted and trimmed groups, and the alphabet
of ENCGRP. -/
theorem coreString_length_and_digit : Obligations.CoreString :=
  fun b => ⟨length_coreString b, fun _ => coreString_digit⟩

/-! a run of `!` (42_encoder.md R147, R148) -/

/-- Five `!` at a time from the front of a run, whatever stands behind them. -/
theorem zpack_replicate_five_mul (q : Nat) (t : List Byte) :
    zpack (List.replicate (5 * q) bangChar ++ t) = List.replicate q zChar ++ zpack t := by
  induction q with
  | zero => rfl
  | succ q ih =>
    have hrun : List.replicate (5 * (q + 1)) bangChar =
        fiveBangs ++ List.replicate (5 * q) bangChar := by
      rw [fiveBangs, List.replicate_append_replicate, Nat.mul_succ, Nat.add_comm]
    rw [hrun, List.append_assoc, zpack_match, ih, List.replicate_succ, List.cons_append]

/-- Fewer than five `!` do not match unless a `!` follows them. -/
theorem not_fiveBangs_prefix {m : Nat} (hm : m < 5) {t : List Byte}
    (ht : ¬ [bangChar] <+: t) : ¬ fiveBangs <+: List.replicate m bangChar ++ t := by
  have hfive : fiveBangs =
      List.replicate m bangChar ++ ([bangChar] ++ List.replicate (4 - m) bangChar) := by
    rw [List.singleton_append, ← List.replicate_succ, List.replicate_append_replicate, fiveBangs]
    congr 1
    omega
  rw [hfive, List.prefix_append_right_inj]
  exact fun h => ht ((List.prefix_append _ _).trans h)

/-- Fewer than five `!` that no `!` follows are kept. -/
theorem zpack_replicate_lt_five {m : Nat} (hm : m < 5) {t : List Byte}
    (ht : ¬ [bangChar] <+: t) :
    zpack (List.replicate m bangChar ++ t) = List.replicate m bangChar ++ zpack t := by
  induction m with
  | zero => rfl
  | succ m ih =>
    have hkeep := not_fiveBangs_prefix hm ht
    rw [List.replicate_succ, List.cons_append] at hkeep ⊢
    rw [zpack_keep hkeep, ih (by omega), List.cons_append]

/-- A run of `m` symbols `!` that no `!` follows. -/
theorem zpack_run (m : Nat) {t : List Byte} (ht : ¬ [bangChar] <+: t) :
    zpack (List.replicate m bangChar ++ t) =
      List.replicate (m / 5) zChar ++ List.replicate (m % 5) bangChar ++ zpack t := by
  calc zpack (List.replicate m bangChar ++ t)
      = zpack (List.replicate (5 * (m / 5)) bangChar ++
          (List.replicate (m % 5) bangChar ++ t)) := by
        rw [← List.append_assoc, List.replicate_append_replicate, Nat.div_add_mod]
    _ = List.replicate (m / 5) zChar ++ List.replicate (m % 5) bangChar ++ zpack t := by
        rw [zpack_replicate_five_mul, zpack_replicate_lt_five (Nat.mod_lt m (by decide)) ht,
          List.append_assoc]

/-- Settles O49: the laws of the scan, and its value on a run ended by the text or another symbol. -/
theorem zeroShorthand : Obligations.ZeroShorthand := by
  refine ⟨fun s => ⟨not_fiveBangs_infix_zpack s, length_zpackScan_le 0 s⟩,
    fun _ => zexpand_zpack, fun m => ?_, fun m c s hc => ?_⟩
  · simpa [zpack_nil] using zpack_run m (t := []) (by simp)
  · have hbang : ¬ [bangChar] <+: c :: s := fun h => hc (List.cons_prefix_cons.mp h).1.symm
    have hkeep : ¬ fiveBangs <+: c :: s := not_fiveBangs_prefix (m := 0) (by decide) hbang
    rw [zpack_run m hbang, zpack_keep hkeep]

end Sys2Proof.Machine
end

section
/-! PROOFS of the statements about the decoder (43_decoder.md): the conversion group by group, what
STRIPM takes off a message, what CHECK reports, and the round trip of a message. -/

namespace Sys2Proof.Machine

/-! conversion group by group (41_grouping_padding.md R120 to R125), common to both units -/

/-- Pad to whole groups of `w`, convert each group by `f`, join, and trim by the pad count: CORE,
and steps 3 to 7 of DECODE. -/
def convertGroups (f : List Byte → List Byte) (w : Nat) (v : Byte) (s : List Byte) : List Byte :=
  trim ((split w (pad s (padCount w s.length) v)).map f).flatten (padCount w s.length)

theorem decodeDigits_eq_convertGroups (e : List Byte) :
    decodeDigits e = convertGroups decGrp 5 padChar e := rfl

theorem coreString_eq_convertGroups (b : List Byte) :
    coreString b = convertGroups encGrp 4 padByte b := rfl

theorem convertGroups_nil (f : List Byte → List Byte) (w : Nat) (v : Byte) :
    convertGroups f w v [] = [] := by
  simp [convertGroups, padCount, pad, split_nil, trim_zero]

/-- A trim that ends inside the second part leaves the first one whole. -/
theorem trim_append {k : Nat} (p : List Byte) {q : List Byte} (h : k ≤ q.length) :
    trim (p ++ q) k = p ++ trim q k := by
  rw [trim_eq_take, trim_eq_take, List.length_append, Nat.add_sub_assoc h,
    List.take_length_add_append]

section
variable {f : List Byte → List Byte} {w m : Nat} (hf : ∀ g, (f g).length = m)
include hf

/-- The trim takes no more than the last group gives. -/
theorem padCount_le_length_converted (hw : 0 < w) (hm : w ≤ m + 1) (v : Byte) (s : List Byte) :
    padCount w s.length ≤ ((split w (pad s (padCount w s.length) v)).map f).flatten.length := by
  have hlt := padCount_lt hw s.length
  rcases Nat.eq_zero_or_pos (padCount w s.length) with h0 | hpos
  · omega
  · have hgroup : 0 < (s.length + padCount w s.length) / w :=
      Nat.div_pos (Nat.le_of_dvd (by omega) (Nat.dvd_of_mod_eq_zero (add_padCount_mod hw _))) hw
    rw [length_flatten_map_split hf, length_pad]
    exact (by omega : padCount w s.length ≤ m).trans (Nat.le_mul_of_pos_left m hgroup)

/-- A whole group in front is converted on its own. -/
theorem convertGroups_append (hw : 0 < w) (hm : w ≤ m + 1) (v : Byte) {g : List Byte}
    (hg : g.length = w) (rest : List Byte) :
    convertGroups f w v (g ++ rest) = f g ++ convertGroups f w v rest := by
  have hcount : padCount w (g ++ rest).length = padCount w rest.length := by
    rw [List.length_append, hg, padCount, Nat.add_mod_left, padCount]
  have hpad : pad (g ++ rest) (padCount w rest.length) v =
      g ++ pad rest (padCount w rest.length) v := List.append_assoc ..
  rw [convertGroups, hcount, hpad, split_append hw hg, List.map_cons, List.flatten_cons,
    trim_append _ (padCount_le_length_converted hf hw hm v rest), convertGroups]

/-- A short group is padded, and as many symbols are dropped as were added. -/
theorem convertGroups_short (v : Byte) {g : List Byte} (hpos : 0 < g.length) (hlt : g.length < w) :
    convertGroups f w v g =
      (f (g ++ List.replicate (w - g.length) v)).take (m - (w - g.length)) := by
  have hcount : padCount w g.length = w - g.length := by
    rw [padCount, Nat.mod_eq_of_lt hlt, Nat.mod_eq_of_lt (by omega)]
  have hpadded : (pad g (w - g.length) v).length = w := by rw [length_pad]; omega
  have hsplit : split w (pad g (w - g.length) v) = [pad g (w - g.length) v] := by
    have h := split_append (by omega) hpadded []
    rwa [List.append_nil, split_nil] at h
  rw [convertGroups, hcount, hsplit, List.map_singleton, List.flatten_singleton, trim_eq_take, hf,
    pad]

end

theorem coreString_append {g : List Byte} (hg : g.length = 4) (rest : List Byte) :
    coreString (g ++ rest) = encGrp g ++ coreString rest :=
  convertGroups_append length_encGrp (by decide) (by decide) padByte hg rest

/-- A short group of `n` bytes gives the first `n + 1` characters of its padded group
(42_encoder.md R141, R146). -/
theorem coreString_short {g : List Byte} (hpos : 0 < g.length) (hlt : g.length < 4) :
    coreString g = (encGrp (g ++ List.replicate (4 - g.length) padByte)).take (g.length + 1) := by
  have hlen : 5 - (4 - g.length) = g.length + 1 := by omega
  rw [coreString_eq_convertGroups, convertGroups_short length_encGrp padByte hpos hlt, hlen]

theorem decodeDigits_append {g : List Byte} (hg : g.length = 5) (rest : List Byte) :
    decodeDigits (g ++ rest) = decGrp g ++ decodeDigits rest :=
  convertGroups_append length_decGrp (by decide) (by decide) padChar hg rest

/-- A short group of `n` characters gives the first `n - 1` bytes of its padded group
(43_decoder.md R175, R182). -/
theorem decodeDigits_short {g : List Byte} (hpos : 0 < g.length) (hlt : g.length < 5) :
    decodeDigits g = (decGrp (g ++ List.replicate (5 - g.length) padChar)).take (g.length - 1) := by
  have hlen : 4 - (5 - g.length) = g.length - 1 := by omega
  rw [decodeDigits_eq_convertGroups, convertGroups_short length_decGrp padChar hpos hlt, hlen]

/-- Settles O55: the equations of the group by group conversion, at DECGRP and the pad character. -/
theorem shortTailRule : Obligations.ShortTailRule :=
  ⟨convertGroups_nil decGrp 5 padChar, fun _ rest hg => decodeDigits_append hg rest,
    fun _ hpos hle => decodeDigits_short hpos (Nat.lt_succ_of_le hle)⟩

/-- A text taken apart from the front into groups of `w` and a short rest. -/
theorem groups_induction {w : Nat} (hw : 0 < w) {P : List Byte → Prop}
    (short : ∀ g, g.length < w → P g)
    (group : ∀ g rest, g.length = w → P rest → P (g ++ rest)) (s : List Byte) : P s := by
  induction hn : s.length using Nat.strong_induction_on generalizing s with
  | _ n ih =>
    subst hn
    rcases Nat.lt_or_ge s.length w with hlt | hge
    · exact short s hlt
    · rw [← List.take_append_drop w s]
      refine group _ _ (List.length_take_of_le hge) (ih _ ?_ _ rfl)
      rw [List.length_drop]
      omega

/-! one group decoded (43_decoder.md R177, R181) -/

theorem d2i_five_chars (c0 c1 c2 c3 c4 : Byte) :
    d2i 85 ([c0, c1, c2, c3, c4].map digitValue) =
      (c0.toNat - 33) * 85 ^ 4 + (c1.toNat - 33) * 85 ^ 3 + (c2.toNat - 33) * 85 ^ 2 +
        (c3.toNat - 33) * 85 + (c4.toNat - 33) := by
  simp [d2i_cons, d2i_nil, digitValue, Nat.add_assoc]

theorem i2d_four (r v : Nat) :
    i2d r 4 v = [v / r ^ 3 % r, v / r ^ 2 % r, v / r % r, v % r] := by
  simp [i2d_succ, i2d_zero, Nat.div_div_eq_div_mul, Nat.pow_succ]

/-- The four bytes of DECGRP, by the value of the group. -/
theorem decGrp_of_value {c : List Byte} {n : Nat} (h : d2i 85 (c.map digitValue) = n) :
    decGrp c = [byteOfDigit (n / 256 ^ 3 % 256), byteOfDigit (n / 256 ^ 2 % 256),
      byteOfDigit (n / 256 % 256), byteOfDigit (n % 256)] := by
  rw [decGrp, h, i2d_four]
  rfl

theorem byteOfDigit_mod_toNat (v : Nat) : (byteOfDigit (v % 256)).toNat = v % 256 :=
  Nat.mod_eq_of_lt (Nat.mod_lt v (by decide))

/-- Settles O46: the bytes are the four base-256 digits of the value, which weigh `n mod 2 ^ 32`. -/
theorem decodeGroup : Obligations.DecodeGroup := by
  intro c0 c1 c2 c3 c4 _ n hn
  refine ⟨_, _, _, _, decGrp_of_value ((d2i_five_chars ..).trans hn.symm), byteOfDigit_mod_toNat _,
    byteOfDigit_mod_toNat _, byteOfDigit_mod_toNat _, byteOfDigit_mod_toNat _, ?_⟩
  simp only [byteOfDigit_mod_toNat]
  omega

/-! STRIPM (43_decoder.md R171) -/

theorem openLen_eq_ite (s : List Byte) : openLen s = if openMarker <+: s then 2 else 0 := by
  have h : s.take 2 = openMarker ↔ openMarker <+: s := by
    rw [List.prefix_iff_eq_take, eq_comm]
    rfl
  simp only [openLen, h]

theorem closeLen_eq_ite (r : List Byte) : closeLen r = if closeMarker <:+ r then 2 else 0 := by
  have h : (2 ≤ r.length ∧ r.drop (r.length - 2) = closeMarker) ↔ closeMarker <:+ r :=
    ⟨fun h => h.2 ▸ List.drop_suffix .., fun h =>
      ⟨h.length_le, (List.suffix_iff_eq_drop.mp h).symm⟩⟩
  simp only [closeLen, h]

/-- `pre` and `post` are the markers STRIPM takes off the message `pre ++ t ++ post`. -/
structure Markers (pre t post : List Byte) : Prop where
  front : pre = openMarker ∨ pre = [] ∧ ¬ openMarker <+: t ++ post
  back : post = closeMarker ∨ post = [] ∧ ¬ closeMarker <:+ t

theorem Markers.stripm_eq {pre t post : List Byte} (h : Markers pre t post) :
    stripm (pre ++ t ++ post) = (t, pre.length) := by
  have hopen : openLen (pre ++ (t ++ post)) = pre.length := by
    rw [openLen_eq_ite]
    rcases h.front with rfl | ⟨rfl, hno⟩
    · exact if_pos (List.prefix_append ..)
    · exact if_neg hno
  have hclose : closeLen (t ++ post) = post.length := by
    rw [closeLen_eq_ite]
    rcases h.back with rfl | ⟨rfl, hno⟩
    · exact if_pos (List.suffix_append ..)
    · exact if_neg (by rwa [List.append_nil])
  simp [stripm, hopen, hclose]

/-- Every message has its markers, each there or not. -/
theorem exists_markers (x : List Byte) :
    ∃ pre t post, x = pre ++ t ++ post ∧ Markers pre t post := by
  obtain ⟨pre, r, rfl, hfront⟩ :
      ∃ pre r, x = pre ++ r ∧ (pre = openMarker ∨ pre = [] ∧ ¬ openMarker <+: r) := by
    by_cases h : openMarker <+: x
    · obtain ⟨r, rfl⟩ := h
      exact ⟨openMarker, r, rfl, .inl rfl⟩
    · exact ⟨[], x, rfl, .inr ⟨rfl, h⟩⟩
  by_cases h : closeMarker <:+ r
  · obtain ⟨t, rfl⟩ := h
    exact ⟨pre, t, closeMarker, (List.append_assoc ..).symm, hfront, .inl rfl⟩
  · exact ⟨pre, r, [], by simp, by rwa [List.append_nil], .inr ⟨rfl, h⟩⟩

/-- Settles O51: the removed parts are the markers of the message. -/
theorem stripMarkers : Obligations.StripMarkers := by
  intro x
  obtain ⟨pre, t, post, rfl, hm⟩ := exists_markers x
  rw [hm.stripm_eq, List.append_assoc, List.drop_left]
  constructor
  · rcases hm.front with rfl | ⟨rfl, hno⟩
    · exact .inl ⟨List.prefix_append .., rfl⟩
    · exact .inr ⟨hno, rfl⟩
  · rcases hm.back with rfl | ⟨rfl, hno⟩
    · exact .inl ⟨List.suffix_append .., rfl⟩
    · rw [List.append_nil]
      exact .inr ⟨hno, rfl⟩

/-! CHECK (43_decoder.md R174) and the two outcomes of DECODE (R180) -/

/-- CHECK reports the first symbol of class BAD. -/
theorem check_eq_some_iff {t : List Byte} {a : Nat} {sym : Byte} {idx : Nat} :
    check t a = some (sym, idx) ↔ ∃ i, idx = a + i ∧ t[i]? = some sym ∧ symClass sym = .bad ∧
      ∀ j c, j < i → t[j]? = some c → symClass c ≠ .bad := by
  induction t generalizing a with
  | nil => simp [check_nil]
  | cons c t ih =>
    by_cases hc : symClass c = .bad
    · rw [check_cons_bad hc]
      constructor
      · rintro ⟨⟩
        exact ⟨0, rfl, rfl, hc, fun j _ hj => absurd hj (Nat.not_lt_zero j)⟩
      · rintro ⟨i, rfl, hi, -, hfirst⟩
        cases i with
        | zero => cases hi; rfl
        | succ i => exact absurd hc (hfirst 0 c (Nat.succ_pos i) rfl)
    · rw [check_cons_ok hc, ih]
      constructor
      · rintro ⟨i, rfl, hi, hbad, hfirst⟩
        refine ⟨i + 1, by omega, hi, hbad, fun j d hj hd => ?_⟩
        cases j with
        | zero => cases hd; exact hc
        | succ j => exact hfirst j d (by omega) hd
      · rintro ⟨i, rfl, hi, hbad, hfirst⟩
        cases i with
        | zero => cases hi; exact absurd hbad hc
        | succ i =>
          exact ⟨i, by omega, hi, hbad, fun j d hj hd => hfirst (j + 1) d (by omega) hd⟩

theorem decodeMsg_eq_invalidInput_iff {x : List Byte} {sym : Byte} {idx : Nat} :
    decodeMsg x = .invalidInput sym idx ↔ check (stripm x).1 (stripm x).2 = some (sym, idx) :=
  ⟨decodeMsg_eq_invalidInput, fun h => by simp [decodeMsg, h]⟩

theorem check_of_decodeMsg_bytes {x b : List Byte} (h : decodeMsg x = .bytes b) :
    check (stripm x).1 (stripm x).2 = none := by
  simp only [decodeMsg] at h
  split at h
  · cases h
  · next hc => exact hc

theorem decodeMsg_of_no_bad {x : List Byte} (h : ∀ c ∈ (stripm x).1, symClass c ≠ .bad) :
    decodeMsg x = .bytes (decodeDigits (zexpand (stripw (stripm x).1))) := by
  simp [decodeMsg, check_eq_none_iff.mpr h]

/-- Settles O52: the fault is CHECK's report, and the checked text stands in the message behind the
opening marker. -/
theorem invalidInputReportsTheFirst : Obligations.InvalidInputReportsTheFirst := by
  intro x sym idx
  have hiff := decodeMsg_eq_invalidInput_iff.trans (check_eq_some_iff (t := (stripm x).1)
    (a := (stripm x).2) (sym := sym) (idx := idx))
  refine ⟨hiff, fun h => ?_⟩
  obtain ⟨i, rfl, hi, -, -⟩ := hiff.mp h
  obtain ⟨pre, t, post, rfl, hm⟩ := exists_markers x
  rw [hm.stripm_eq] at hi ⊢
  have hlt : i < t.length := (List.getElem?_eq_some_iff.mp hi).1
  rw [List.append_assoc, List.getElem?_append_right (Nat.le_add_right ..), Nat.add_sub_cancel_left,
    List.getElem?_append_left hlt]
  exact hi

/-! STRIPW and ZEXPAND (43_decoder.md R172, R173) -/

theorem symClass_eq_ws_iff {c : Byte} : symClass c = .ws ↔ c ∈ wsSet := by
  simp only [symClass]
  split_ifs with h <;> simp [h]

theorem stripw_cons (c : Byte) (t : List Byte) :
    stripw (c :: t) = (if c ∈ wsSet then [] else [c]) ++ stripw t := by
  by_cases h : c ∈ wsSet
  · simp [stripw, h, symClass_eq_ws_iff.mpr h]
  · simp [stripw, h, mt symClass_eq_ws_iff.mp h]

/-- Settles O53: both stages act symbol by symbol. -/
theorem whitespaceAndShorthandStages : Obligations.WhitespaceAndShorthandStages := by
  refine ⟨fun p q c => ?_, fun p q c => ?_, rfl, rfl, length_zexpand⟩
  · rw [stripw_append, stripw_cons, List.append_assoc]
    rfl
  · rw [zexpand_append, zexpand_cons, List.append_assoc]
    rfl

/-! DECODE depends on the text between the markers without its whitespace (43_decoder.md R185) -/

/-- The symbol CHECK reports is the first BAD one of what STRIPW keeps. -/
theorem map_fst_check (t : List Byte) (a : Nat) :
    (check t a).map Prod.fst = (stripw t).find? (fun c => symClass c = .bad) := by
  induction t generalizing a with
  | nil => rfl
  | cons c t ih =>
    by_cases hbad : symClass c = .bad
    · simp [check_cons_bad hbad, stripw, hbad]
    · rw [check_cons_ok hbad, ih]
      by_cases hws : symClass c = .ws
      · simp [stripw, hws]
      · simp [stripw, hws, hbad]

/-- Two messages whose texts differ by whitespace only have the same outcome but for the index. -/
theorem decodeMsg_congr_stripw {x y : List Byte}
    (h : stripw (stripm y).1 = stripw (stripm x).1) :
    (∀ b, decodeMsg x = .bytes b → decodeMsg y = .bytes b) ∧
    (∀ sym idx, decodeMsg x = .invalidInput sym idx →
      ∃ idx', decodeMsg y = .invalidInput sym idx') := by
  have hcheck : (check (stripm y).1 (stripm y).2).map Prod.fst =
      (check (stripm x).1 (stripm x).2).map Prod.fst := by
    rw [map_fst_check, map_fst_check, h]
  constructor
  · intro b hb
    rw [check_of_decodeMsg_bytes hb, Option.map_none, Option.map_eq_none_iff,
      check_eq_none_iff] at hcheck
    rw [decodeMsg_of_no_bad hcheck, h, ← decodeMsg_eq_bytes hb]
  · intro sym idx hx
    rw [decodeMsg_eq_invalidInput hx, Option.map_some, Option.map_eq_some_iff] at hcheck
    obtain ⟨⟨_, idx'⟩, hy, rfl⟩ := hcheck
    exact ⟨idx', decodeMsg_eq_invalidInput_iff.mpr hy⟩

/-- What begins a text with inserted whitespace, and holds no whitespace itself, began the text. -/
theorem prefix_of_inserted_ws {p t t' : List Byte} (hp : ∀ c ∈ p, symClass c ≠ .ws)
    (hsub : t.Sublist t') (hw : stripw t' = stripw t) (h : p <+: t') : p <+: t := by
  induction hsub generalizing p with
  | slnil => exact h
  | @cons t t' c hsub ih =>
    by_cases hc : symClass c = .ws
    · cases p with
      | nil => exact List.nil_prefix
      | cons d p =>
        obtain ⟨rfl, -⟩ := List.cons_prefix_cons.mp h
        exact absurd hc (hp d (List.mem_cons_self ..))
    · have hle : (stripw t).length ≤ (stripw t').length := (hsub.filter _).length_le
      rw [← hw, stripw_cons, if_neg (mt symClass_eq_ws_iff.mpr hc)] at hle
      exact absurd hle (Nat.not_succ_le_self _)
  | @cons_cons t t' c hsub ih =>
    cases p with
    | nil => exact List.nil_prefix
    | cons d p =>
      rw [List.cons_prefix_cons] at h ⊢
      refine ⟨h.1, ih (fun e he => hp e (List.mem_cons_of_mem _ he)) ?_ h.2⟩
      rw [stripw_cons, stripw_cons] at hw
      exact List.append_cancel_left hw

theorem suffix_of_inserted_ws {p t t' : List Byte} (hp : ∀ c ∈ p, symClass c ≠ .ws)
    (hsub : t.Sublist t') (hw : stripw t' = stripw t) (h : p <:+ t') : p <:+ t := by
  rw [← List.reverse_prefix] at h ⊢
  refine prefix_of_inserted_ws (by simpa using hp) hsub.reverse ?_ h
  simpa [stripw, List.filter_reverse] using hw

/-- Whitespace inserted between the markers makes no new marker. -/
theorem Markers.insert_ws {pre t t' post : List Byte} (h : Markers pre t post)
    (hsub : t.Sublist t') (hw : stripw t' = stripw t) : Markers pre t' post where
  front := h.front.imp_right (And.imp_right (mt (prefix_of_inserted_ws (by decide)
    (hsub.append_right post) (by rw [stripw_append, stripw_append, hw]))))
  back := h.back.imp_right (And.imp_right (mt (suffix_of_inserted_ws (by decide) hsub hw)))

/-- Settles O56: the message with the whitespace has the same markers, and the outcome depends on
the text between them without its whitespace. -/
theorem whitespaceTolerance : Obligations.WhitespaceTolerance := by
  intro x t' hsub hw
  obtain ⟨pre, t, post, rfl, hm⟩ := exists_markers x
  rw [hm.stripm_eq] at hsub hw ⊢
  have hm' := hm.insert_ws hsub hw
  have htake : (pre ++ t ++ post).take pre.length = pre := by
    rw [List.append_assoc, List.take_left]
  have hdrop : (pre ++ t ++ post).drop (pre.length + t.length) = post := by
    rw [← List.length_append, List.drop_left]
  rw [htake, hdrop]
  exact decodeMsg_congr_stripw (by rw [hm.stripm_eq, hm'.stripm_eq, hw])

/-! the markers are optional (43_decoder.md R184) -/

theorem Markers.decodeMsg_eq {pre t post : List Byte} (h : Markers pre t post)
    (ht : ∀ c ∈ t, symClass c ≠ .bad) :
    decodeMsg (pre ++ t ++ post) = .bytes (decodeDigits (zexpand (stripw t))) := by
  have hs := h.stripm_eq
  rw [decodeMsg_of_no_bad (by rwa [hs]), hs]

/-- The markers hold `~`, which is BAD. -/
theorem not_marker_of_no_bad {t : List Byte} (ht : ∀ c ∈ t, symClass c ≠ .bad) :
    ¬ openMarker <+: t ∧ ¬ closeMarker <:+ t :=
  ⟨fun h => ht 0x7E#8 (h.subset (by decide)) (by decide),
    fun h => ht 0x7E#8 (h.subset (by decide)) (by decide)⟩

/-- Only the text `<` makes an opening marker with the closing one. -/
theorem not_openMarker_prefix_append {t : List Byte} (ht : ∀ c ∈ t, symClass c ≠ .bad)
    (hne : t ≠ [0x3C#8]) : ¬ openMarker <+: t ++ closeMarker := by
  intro h
  match t with
  | [] => exact absurd h (by decide)
  | [c] =>
    obtain ⟨rfl, -⟩ := List.cons_prefix_cons.mp h
    exact hne rfl
  | c :: d :: t =>
    obtain ⟨-, h⟩ := List.cons_prefix_cons.mp h
    obtain ⟨rfl, -⟩ := List.cons_prefix_cons.mp h
    exact ht 0x7E#8 (by simp) (by decide)

/-- Settles O57: each form has the markers it is written with, but for the text `<` before `~>`,
which reads as `<~` before `>`: each of the two digits alone decodes to no byte. -/
theorem markersAreOptional : Obligations.MarkersAreOptional := by
  intro t ht
  obtain ⟨hopen, hclose⟩ := not_marker_of_no_bad ht
  refine ⟨decodeDigits (zexpand (stripw t)), ?_, ?_, ?_, ?_⟩
  · have hm : Markers [] t [] := ⟨.inr ⟨rfl, by rwa [List.append_nil]⟩, .inr ⟨rfl, hclose⟩⟩
    simpa using hm.decodeMsg_eq ht
  · have hm : Markers openMarker t [] := ⟨.inl rfl, .inr ⟨rfl, hclose⟩⟩
    simpa using hm.decodeMsg_eq ht
  · rcases eq_or_ne t [0x3C#8] with rfl | hne
    · decide
    · have hm : Markers [] t closeMarker :=
        ⟨.inr ⟨rfl, not_openMarker_prefix_append ht hne⟩, .inl rfl⟩
      exact hm.decodeMsg_eq ht
  · have hm : Markers openMarker t closeMarker := ⟨.inl rfl, .inl rfl⟩
    exact hm.decodeMsg_eq ht

/-! DECODE undoes ENCODE (43_decoder.md R185 (a)) -/

/-- The leading digits are the digits of the value without its last places. -/
theorem take_i2d (r n k v : Nat) : (i2d r (n + k) v).take n = i2d r n (v / r ^ k) := by
  induction k generalizing v with
  | zero => rw [Nat.add_zero, Nat.pow_zero, Nat.div_one, List.take_of_length_le (length_i2d ..).le]
  | succ k ih =>
    rw [← Nat.add_assoc, i2d_succ, List.take_append_of_le_length (by rw [length_i2d]; omega), ih,
      Nat.div_div_eq_div_mul, Nat.pow_succ']

theorem take_encGrp {n k : Nat} (hn : n + k = 4) (g : List Byte) :
    (encGrp g).take (n + 1) =
      (i2d 85 (n + 1) (d2i 256 (g.map BitVec.toNat) / 85 ^ k)).map digitChar := by
  have hwidth : groupChars = n + 1 + k := by simp only [groupChars]; omega
  rw [encGrp, ← List.map_take, hwidth, take_i2d]

theorem take_decGrp {n k : Nat} (hn : n + k = 4) (c : List Byte) :
    (decGrp c).take n = (i2d 256 n (d2i 85 (c.map digitValue) / 256 ^ k)).map byteOfDigit := by
  rw [decGrp, ← List.map_take, groupBytes, ← hn, take_i2d]

/-- Rounding a multiple of `a` down to a multiple of `b` and adding `b - 1` stays below the next
multiple of `a`. -/
theorem round_up_div_eq {a b : Nat} (hb : 0 < b) (hba : b ≤ a) (q : Nat) :
    (q * a / b * b + (b - 1)) / a = q := by
  have hdiv := Nat.div_add_mod' (q * a) b
  have hmod := Nat.mod_lt (q * a) hb
  refine Nat.div_eq_of_lt_le (by omega) ?_
  rw [Nat.succ_mul]
  omega

theorem map_digitValue_digitChar {ds : List Nat} (h : ∀ d ∈ ds, d < 85) :
    (ds.map digitChar).map digitValue = ds := by
  rw [List.map_map]
  exact (List.map_congr_left fun d hd => digitValue_digitChar (h d hd)).trans (List.map_id _)

theorem map_byteOfDigit_toNat (g : List Byte) : (g.map BitVec.toNat).map byteOfDigit = g := by
  simp [Function.comp_def, byteOfDigit]

/-- The padding bytes only shift the value. -/
theorem d2i_pad_zero (g : List Byte) (k : Nat) :
    d2i 256 ((g ++ List.replicate k padByte).map BitVec.toNat) =
      d2i 256 (g.map BitVec.toNat) * 256 ^ k := by
  have hzero : (List.replicate k padByte).map BitVec.toNat = List.replicate k 0 :=
    List.map_replicate
  rw [List.map_append, hzero, d2i_append_list, d2i_replicate_zero, List.length_replicate,
    Nat.add_zero]

/-- The value of a group whose last `k` characters were dropped and replaced by the pad character,
the greatest digit. -/
theorem d2i_repadded_encGrp {g : List Byte} {n k : Nat} (hg : g.length = 4) (hn : n + k = 4) :
    d2i 85 (((encGrp g).take (n + 1) ++ List.replicate k padChar).map digitValue) =
      d2i 256 (g.map BitVec.toNat) / 85 ^ k * 85 ^ k + (85 ^ k - 1) := by
  have hpad : (List.replicate k padChar).map digitValue = List.replicate k (85 - 1) :=
    List.map_replicate
  have hfits : d2i 256 (g.map BitVec.toNat) / 85 ^ k < 85 ^ (n + 1) := by
    rw [Nat.div_lt_iff_lt_mul (Nat.pow_pos (by decide)), ← Nat.pow_add,
      (by omega : n + 1 + k = 5)]
    exact (d2i_toNat_lt hg).trans (by decide)
  rw [List.map_append, take_encGrp hn, map_digitValue_digitChar (i2d_lt (by decide) _ _), hpad,
    d2i_append_list, List.length_replicate, d2i_replicate_pred (by decide), d2i_i2d,
    Nat.mod_eq_of_lt hfits]

/-- A short group of `n` bytes through both paddings: dropping `k` characters and padding with the
greatest digit raises the value by less than the weight of the `k` padding bytes. -/
theorem take_decGrp_short {g : List Byte} {n k : Nat} (hg : g.length = n) (hn : n + k = 4) :
    (decGrp ((encGrp (g ++ List.replicate k padByte)).take (n + 1) ++
      List.replicate k padChar)).take n = g := by
  have hlen : (g ++ List.replicate k padByte).length = 4 := by
    rw [List.length_append, List.length_replicate, hg, hn]
  have hdigits : i2d 256 n (d2i 256 (g.map BitVec.toNat)) = g.map BitVec.toNat := by
    have h := i2d_d2i (r := 256) (ds := g.map BitVec.toNat) fun _ => toNat_lt_of_mem
    rwa [List.length_map, hg] at h
  rw [take_decGrp hn, d2i_repadded_encGrp hlen hn, d2i_pad_zero,
    round_up_div_eq (Nat.pow_pos (by decide)) (Nat.pow_le_pow_left (by decide) k), hdigits,
    map_byteOfDigit_toNat]

/-- Steps 3 to 7 of DECODE undo CORE, group by group. -/
theorem decodeDigits_coreString (b : List Byte) : decodeDigits (coreString b) = b := by
  induction b using groups_induction (w := 4) (by decide) with
  | short g hg =>
    rcases Nat.eq_zero_or_pos g.length with h0 | hpos
    · rw [List.length_eq_zero_iff.mp h0]
      rfl
    · have hlen : (coreString g).length = g.length + 1 := by rw [length_coreString]; omega
      have hk : 5 - (g.length + 1) = 4 - g.length := by omega
      rw [decodeDigits_short (by omega) (by omega), hlen, hk, coreString_short hpos hg]
      exact take_decGrp_short rfl (by omega)
  | group g rest hg ih =>
    rw [coreString_append hg, decodeDigits_append (length_encGrp g), decGrp_encGrp hg, ih]

theorem zpack_coreString_class {b : List Byte} {c : Byte} (h : c ∈ zpack (coreString b)) :
    symClass c = .digit ∨ symClass c = .zsh := by
  rcases mem_zpack h with h | rfl
  · exact .inl (coreString_digit h)
  · exact .inr (by decide)

/-- Settles O58: STRIPM and ZEXPAND take back WRAP and ZPACK, the body holds neither whitespace nor
a BAD symbol, and what is left is the core string. -/
theorem messageRoundTrip : Obligations.MessageRoundTrip := by
  intro b
  have hm : Markers openMarker (zpack (coreString b)) closeMarker := ⟨.inl rfl, .inl rfl⟩
  have hclass (c) (hc : c ∈ zpack (coreString b)) : symClass c ≠ .bad ∧ symClass c ≠ .ws := by
    rcases zpack_coreString_class hc with h | h <;> simp [h]
  have hstripw : stripw (zpack (coreString b)) = zpack (coreString b) :=
    List.filter_eq_self.mpr fun c hc => bne_iff_ne.mpr (hclass c hc).2
  rw [encodeMsg, wrap, hm.decodeMsg_eq fun c hc => (hclass c hc).1, hstripw,
    zexpand_zpack (zChar_not_mem_coreString b), decodeDigits_coreString]

end Sys2Proof.Machine
end

section
/-! PROOFS of the statements about the port protocol (44_port_protocol.md): what one clock edge
transfers, what a step makes of it, and what each event of R207 does and leaves alone. -/

namespace Sys2Proof.Machine

/-! what is transferred at one clock edge (44_port_protocol.md R201) -/

theorem fetch_rst {u : UnitId} {p : Pins} (hr : p.rst = true) (s : State) :
    fetch (.edge u p) s = some (.rst u, 1) := by
  simp [fetch, hr]

theorem fetch_beatIn {u : UnitId} {p : Pins} {s : State} (hr : p.rst = false)
    (hv : p.inValid = true) (hp : (getUnit u s).phase = .load) :
    fetch (.edge u p) s = some (.beatIn u, (mkBeat p.inKind p.inData).toNat) := by
  simp [fetch, inReady, hr, hv, hp]

/-- The beat a unit presents on its output port (10_state.md R35). -/
def presentedBeat (x : UnitState) : Beat := mkBeat (outKind x) (outData x)

theorem fetch_beatOut {u : UnitId} {p : Pins} {s : State} (hr : p.rst = false)
    (ho : p.outReady = true) (hp : (getUnit u s).phase = .drain) :
    fetch (.edge u p) s = some (.beatOut u, (presentedBeat (getUnit u s)).toNat) := by
  simp [fetch, inReady, outValid, presentedBeat, hr, ho, hp]

theorem fetch_edge_none {u : UnitId} {p : Pins} {s : State} (hr : p.rst = false)
    (hin : p.inValid = false ∨ (getUnit u s).phase ≠ .load)
    (hout : p.outReady = false ∨ (getUnit u s).phase ≠ .drain) : fetch (.edge u p) s = none := by
  have hi : (p.inValid && inReady (getUnit u s)) = false := by
    rcases hin with h | h <;> simp [inReady, h]
  have ho : (outValid (getUnit u s) && p.outReady) = false := by
    rcases hout with h | h <;> simp [outValid, h]
  simp [fetch, hr, hi, ho]

theorem fetch_offerBeat (u : UnitId) (b : Beat) (s : State) : fetch (offerBeat u b) s =
    if (getUnit u s).phase = .load then some (.beatIn u, b.toNat) else none := by
  simp [fetch, offerBeat, idlePins, inReady]

theorem fetch_byte (v : Byte) (s : State) : fetch (.byte v) s =
    if s.enc.phase = .load then some (.byte, v.toNat) else none := by
  simp [fetch, inReady]

theorem fetch_char (c : Byte) (s : State) : fetch (.char c) s =
    if s.dec.phase = .load then some (.char, c.toNat) else none := by
  simp [fetch, inReady]

/-- Settles O7: the four cases of the handshake, by `rst` and the phase of the unit. -/
theorem handshakeOfAnEdge : Obligations.HandshakeOfAnEdge :=
  fun _ _ s => ⟨fun hr => fetch_rst hr s, fetch_beatIn, fetch_beatOut, fetch_edge_none⟩

/-! the presented beat -/

theorem presentedBeat_of_cons {x : UnitState} {v : Byte} {rest : List Byte} (hp : x.phase = .drain)
    (ho : x.obuf = v :: rest) : presentedBeat x = dataBeat v := by
  simp [presentedBeat, outKind, outData, dataBeat, hp, ho]

theorem presentedBeat_of_nil {x : UnitState} (hp : x.phase = .drain) (ho : x.obuf = []) :
    presentedBeat x = endBeat := by
  simp [presentedBeat, outKind, outData, endBeat, hp, ho]

theorem decodeBeatOut_data_wf (u : UnitId) (v : Byte) : (decodeBeatOut u (dataBeat v)).WF := by
  cases u <;> simp [dataBeat, Instr.WF, Instr.wellFormed]

theorem decodeBeatOut_end_wf (u : UnitId) : (decodeBeatOut u endBeat).WF := by
  cases u <;> rfl

/-- In DRAIN a unit presents only beats that are instructions: an end beat has `data` 0x00. -/
theorem decode_presentedBeat (u : UnitId) {x : UnitState} (hp : x.phase = .drain) :
    decode (.beatOut u) (presentedBeat x).toNat = .ok (decodeBeatOut u (presentedBeat x)) := by
  refine decode_beatOut rfl ?_
  cases ho : x.obuf with
  | nil => rw [presentedBeat_of_nil hp ho]; exact decodeBeatOut_end_wf u
  | cons v rest => rw [presentedBeat_of_cons hp ho]; exact decodeBeatOut_data_wf u v

/-! a step around the instruction it runs -/

theorem step_of_fetch {s : State} {e : Drive} {rest : List Drive} {l : Lane} {w : Nat} {i : Instr}
    (hs : s.script = e :: rest) (hf : fetch e s = some (l, w)) (hd : decode l w = .ok i) :
    step s = exec i (dropDrive s) := by
  simp [step, hs, hf, hd]

theorem step_of_no_fetch {s : State} {e : Drive} {rest : List Drive} (hs : s.script = e :: rest)
    (hf : fetch e s = none) : step s = .next (dropDrive s) := by
  simp [step, hs, hf]

theorem step_of_no_drive {s : State} (hs : s.script = []) : step s = .next s := by
  simp [step, hs]

theorem dropDrive_of_script {s : State} {e : Drive} {rest : List Drive}
    (hs : s.script = e :: rest) : dropDrive s = { s with script := rest } := by
  simp [dropDrive, hs]

/-- Settles O6: the three outcomes of the fetch, with the used drive taken off the script. -/
theorem stepRunsTheDecodedInstruction : Obligations.StepRunsTheDecodedInstruction := by
  refine ⟨fun s e rest l w i hs hf hd => ?_, fun s e rest hs hf => ?_, fun s => step_of_no_drive⟩
  · rw [step_of_fetch hs hf hd, dropDrive_of_script hs]
  · rw [step_of_no_fetch hs hf, dropDrive_of_script hs]

/-- Every fetched word is an instruction on its lane. -/
theorem decode_of_fetch {e : Drive} {s : State} {l : Lane} {w : Nat}
    (h : fetch e s = some (l, w)) : ∃ i, decode l w = .ok i := by
  cases e with
  | edge u p =>
    simp only [fetch] at h
    split at h
    · cases h; exact ⟨.reset u, rfl⟩
    · split at h
      · cases h; exact ⟨_, decode_beatIn rfl⟩
      · split at h
        · next hv =>
          cases h
          obtain ⟨hp, -⟩ := Bool.and_eq_true_iff.mp hv
          exact ⟨_, decode_presentedBeat u (beq_iff_eq.mp hp)⟩
        · cases h
  | byte v =>
    rw [fetch_byte] at h
    split at h
    · cases h; exact ⟨_, decode_byte v⟩
    · cases h
  | char c =>
    rw [fetch_char] at h
    split at h
    · cases h
      obtain ⟨i, -, hi⟩ := Option.bind_eq_some_iff.mp (decodeChar_bind_charCode c)
      exact ⟨i, decode_char hi⟩
    · cases h

theorem exec_answers_next (i : Instr) (s : State) : ∃ t, exec i s = .next t := by
  obtain ⟨f, hf, -⟩ := exec_actsOn i
  exact ⟨f s, hf s⟩

/-- Settles O10: a fetched word is an instruction, and every instruction answers a next state. -/
theorem stepNeverStops : Obligations.StepNeverStops := by
  intro s
  cases hs : s.script with
  | nil => exact ⟨s, step_of_no_drive hs⟩
  | cons e rest =>
    cases hf : fetch e s with
    | none => exact ⟨_, step_of_no_fetch hs hf⟩
    | some lw =>
      obtain ⟨i, hi⟩ := decode_of_fetch hf
      obtain ⟨t, ht⟩ := exec_answers_next i (dropDrive s)
      exact ⟨t, (step_of_fetch hs hf hi).trans ht⟩

/-! the input side: what an instruction of an input lane can do -/

/-- `END` on the record of a unit. -/
def endUnit : UnitId → UnitState → UnitState
  | .enc => endEnc
  | .dec => endDec

/-- Everything `END` can do to a unit's record: wait, complete the message, fault. -/
theorem endUnit_cases (u : UnitId) (x : UnitState) :
    (x.phase ≠ .load ∧ endUnit u x = x) ∨
    (∃ b, x.phase = .load ∧ endUnit u x = { x with obuf := b, ibuf := [], phase := .drain }) ∨
    (∃ sym idx, x.phase = .load ∧ u = .dec ∧
      endUnit u x = faultEntry errInvalidInput sym idx) := by
  cases u with
  | enc =>
    rcases endEnc_cases x with h | ⟨hp, e⟩
    · exact .inl h
    · exact .inr (.inl ⟨_, hp, e⟩)
  | dec =>
    rcases endDec_cases x with h | ⟨b, hp, -, e⟩ | ⟨sym, idx, hp, -, e⟩
    · exact .inl h
    · exact .inr (.inl ⟨b, hp, e⟩)
    · exact .inr (.inr ⟨sym, idx, hp, rfl, e⟩)

/-- The instructions of the input lanes: beats into a unit and symbol rows. -/
def InputLane (i : Instr) : Prop :=
  (encode i).1 = .beatIn (unitOf i) ∨ (encode i).1 = .byte ∨ (encode i).1 = .char

theorem InputLane.ne_beatOut {i : Instr} (h : InputLane i) (u : UnitId) :
    (encode i).1 ≠ .beatOut u := by
  rcases h with h | h | h <;> simp [h]

theorem InputLane.ne_rst {i : Instr} (h : InputLane i) (u : UnitId) : (encode i).1 ≠ .rst u := by
  rcases h with h | h | h <;> simp [h]

/-- The instructions that carry one symbol into a unit: PUSH, BYTE and the CHAR rows. -/
def DataBeat (i : Instr) : Prop :=
  (∃ v, i = .encPush v) ∨ (∃ v, i = .decPush v) ∨ (encode i).1 = .byte ∨ (encode i).1 = .char

theorem DataBeat.inputLane {i : Instr} (h : DataBeat i) : InputLane i := by
  rcases h with ⟨v, rfl⟩ | ⟨v, rfl⟩ | h | h
  · exact .inl rfl
  · exact .inl rfl
  · exact .inr (.inl h)
  · exact .inr (.inr h)

/-- An instruction of an input lane is a `PUSH` or an `END` of its unit. -/
theorem exec_input_cases {i : Instr} {s t : State} (ht : exec i s = .next t) (h : InputLane i) :
    (∃ v, t = push (unitOf i) v s) ∨
    t = setUnit (unitOf i) (endUnit (unitOf i) (getUnit (unitOf i) s)) s := by
  cases exec_effect ht with
  | push _ v => exact .inl ⟨v, rfl⟩
  | encEnd => exact .inr rfl
  | decEnd => exact .inr rfl
  | popData _ _ _ lane => exact absurd lane (h.ne_beatOut _)
  | popEnd _ _ _ lane => exact absurd lane (h.ne_beatOut _)
  | reset u => exact absurd rfl (h.ne_rst u)

/-- An instruction of an output lane is a `POP` of its unit. -/
theorem exec_output_cases {i : Instr} {s t : State} (ht : exec i s = .next t)
    (h : (encode i).1 = .beatOut (unitOf i)) :
    (∃ v, t = popData (unitOf i) v s) ∨ ∃ d, t = popEnd (unitOf i) d s := by
  cases exec_effect ht with
  | push _ _ _ kind => exact absurd h ((DataBeat.inputLane kind).ne_beatOut _)
  | encEnd => cases h
  | decEnd => cases h
  | popData _ v => exact .inl ⟨v, rfl⟩
  | popEnd _ d => exact .inr ⟨d, rfl⟩
  | reset => cases h

/-- Outside LOAD an input instruction waits (44_port_protocol.md R209). -/
theorem exec_input_of_not_load {i : Instr} {s : State} (h : InputLane i)
    (hp : (getUnit (unitOf i) s).phase ≠ .load) : exec i s = .next s := by
  obtain ⟨t, ht⟩ := exec_answers_next i s
  rw [ht]
  rcases exec_input_cases ht h with ⟨v, rfl⟩ | rfl
  · rw [push_of_not_load hp]
  · rcases endUnit_cases (unitOf i) (getUnit (unitOf i) s) with ⟨-, e⟩ | ⟨_, hl, -⟩ | ⟨_, _, hl, -⟩
    · rw [e, setUnit_getUnit]
    · exact absurd hl hp
    · exact absurd hl hp

/-- Outside DRAIN an output instruction changes nothing (assumption 6). -/
theorem exec_output_of_not_drain {i : Instr} {s : State} (h : (encode i).1 = .beatOut (unitOf i))
    (hp : (getUnit (unitOf i) s).phase ≠ .drain) : exec i s = .next s := by
  obtain ⟨t, ht⟩ := exec_answers_next i s
  rw [ht]
  rcases exec_output_cases ht h with ⟨v, rfl⟩ | ⟨d, rfl⟩
  · rw [popData_of_not (presentsData_of_not_drain hp)]
  · rw [popEnd_of_not (presentsEnd_of_not_drain hp)]

theorem popData_of_not_signals {u : UnitId} {v : Byte} {s : State}
    (h : ¬ (outValid (getUnit u s) = true ∧ outKind (getUnit u s) = 0#1 ∧
      outData (getUnit u s) = v)) : popData u v s = s :=
  popData_of_not (Bool.eq_false_iff.mpr (mt (presentsData_iff_signals v _).mp h))

theorem popEnd_of_not_signals {u : UnitId} {d : Byte} {s : State}
    (h : ¬ (outValid (getUnit u s) = true ∧ outKind (getUnit u s) = 1#1 ∧
      outData (getUnit u s) = d)) : popEnd u d s = s :=
  popEnd_of_not (Bool.eq_false_iff.mpr (mt (presentsEnd_iff_signals d _).mp h))

/-- Settles O25: an input beat waits outside LOAD, and a `POP` needs the beat the unit presents. -/
theorem beatNotAccepted : Obligations.BeatNotAccepted :=
  ⟨fun _ _ => exec_input_of_not_load, fun _ _ => exec_output_of_not_drain,
    fun _ _ => ⟨fun h => congrArg Host.Outcome.next (popData_of_not_signals (u := .enc) h),
      fun h => congrArg Host.Outcome.next (popEnd_of_not_signals (u := .enc) h)⟩,
    fun _ _ => ⟨fun h => congrArg Host.Outcome.next (popData_of_not_signals (u := .dec) h),
      fun h => congrArg Host.Outcome.next (popEnd_of_not_signals (u := .dec) h)⟩⟩

/-! the drives that make an instruction run -/

theorem driveOf_beatIn (u : UnitId) (b : Beat) :
    driveOf (.beatIn u) b.toNat = offerBeat u b := by simp [driveOf]

theorem driveOf_byte (v : Byte) : driveOf .byte v.toNat = .byte v := by simp [driveOf]

theorem driveOf_char (c : Byte) : driveOf .char c.toNat = .char c := by simp [driveOf]

theorem unitOf_decodeBeatIn (u : UnitId) (b : Beat) : unitOf (decodeBeatIn u b) = u := by
  obtain ⟨v, rfl | rfl⟩ := beat_cases b <;> cases u <;> simp [unitOf]

theorem unitOf_of_charCode {i : Instr} {c : Byte} (h : charCode i = some c) : unitOf i = .dec := by
  cases i <;> cases h <;> rfl

theorem inputLane_decodeBeatIn (u : UnitId) (b : Beat) : InputLane (decodeBeatIn u b) :=
  .inl (by rw [encode_decodeBeatIn, unitOf_decodeBeatIn])

/-- A drive whose word is transferred in LOAD only makes the step run the instruction of the word,
in every phase: outside LOAD the instruction waits too. -/
theorem step_offer {s : State} {e : Drive} {rest : List Drive} {l : Lane} {w : Nat} {i : Instr}
    (hs : s.script = e :: rest) (hd : decode l w = .ok i) (hi : InputLane i)
    (hf : fetch e s = if (getUnit (unitOf i) s).phase = .load then some (l, w) else none) :
    step s = exec i (dropDrive s) := by
  by_cases hp : (getUnit (unitOf i) s).phase = .load
  · exact step_of_fetch hs (hf.trans (if_pos hp)) hd
  · rw [step_of_no_fetch hs (hf.trans (if_neg hp)), exec_input_of_not_load hi (by simpa using hp)]

theorem step_offerBeat {u : UnitId} {b : Beat} {s : State} {rest : List Drive}
    (hs : s.script = offerBeat u b :: rest) : step s = exec (decodeBeatIn u b) (dropDrive s) :=
  step_offer hs (decode_beatIn rfl) (inputLane_decodeBeatIn u b)
    (by rw [unitOf_decodeBeatIn, fetch_offerBeat])

theorem step_byte {v : Byte} {s : State} {rest : List Drive} (hs : s.script = .byte v :: rest) :
    step s = exec (.byte v) (dropDrive s) :=
  step_offer hs (decode_byte v) (.inr (.inl rfl)) (fetch_byte v s)

theorem step_char {i : Instr} {c : Byte} {s : State} {rest : List Drive} (hc : charCode i = some c)
    (hs : s.script = .char c :: rest) : step s = exec i (dropDrive s) :=
  step_offer hs (decode_char hc) (.inr (.inr (congrArg Prod.fst (encode_of_charCode hc))))
    (by rw [unitOf_of_charCode hc, fetch_char, getUnit_dec])

theorem step_assertRst {u : UnitId} {s : State} {rest : List Drive}
    (hs : s.script = assertRst u :: rest) : step s = exec (.reset u) (dropDrive s) :=
  step_of_fetch hs (fetch_rst rfl s) rfl

/-- Settles O8, lane by lane: the word of an instruction is the beat, the reset or the symbol its
drive offers. -/
theorem offeredInstructionRuns : Obligations.OfferedInstructionRuns := by
  intro i s hi hout
  have hd := decodeOfEncode i hi
  generalize encode i = lw at hd hout ⊢
  obtain ⟨l, w⟩ := lw
  cases l with
  | beatIn u =>
    obtain ⟨b, rfl, rfl⟩ := decode_beatIn_ok hd
    rw [driveOf_beatIn]
    exact step_offerBeat rfl
  | beatOut u => exact absurd rfl (hout u)
  | rst u =>
    obtain ⟨rfl, rfl⟩ := decode_rst_ok hd
    exact step_assertRst rfl
  | byte =>
    obtain ⟨v, rfl, rfl⟩ := decode_byte_ok hd
    rw [driveOf_byte]
    exact step_byte rfl
  | char =>
    obtain ⟨c, rfl, hc⟩ := decode_char_ok hd
    rw [driveOf_char]
    exact step_char hc rfl

/-- A host that is ready to take a beat makes the step run the beat the unit presents. -/
theorem step_takeBeat {u : UnitId} {s : State} {rest : List Drive}
    (hs : s.script = takeBeat u :: rest) (hp : (getUnit u s).phase = .drain) :
    step s = exec (decodeBeatOut u (presentedBeat (getUnit u s))) (dropDrive s) :=
  step_of_fetch hs (fetch_beatOut rfl rfl hp) (decode_presentedBeat u hp)

theorem step_takeBeat_data {u : UnitId} {s : State} {rest : List Drive} {v : Byte} {ys : List Byte}
    (hs : s.script = takeBeat u :: rest) (hp : (getUnit u s).phase = .drain)
    (ho : (getUnit u s).obuf = v :: ys) :
    step s = exec (decodeBeatOut u (dataBeat v)) (dropDrive s) := by
  rw [step_takeBeat hs hp, presentedBeat_of_cons hp ho]

theorem step_takeBeat_end {u : UnitId} {s : State} {rest : List Drive}
    (hs : s.script = takeBeat u :: rest) (hp : (getUnit u s).phase = .drain)
    (ho : (getUnit u s).obuf = []) : step s = exec (decodeBeatOut u endBeat) (dropDrive s) := by
  rw [step_takeBeat hs hp, presentedBeat_of_nil hp ho]

/-- Settles O9: the presented beat is the first symbol of `obuf`, or the end beat. -/
theorem takenBeatRuns : Obligations.TakenBeatRuns := by
  refine ⟨fun s v rest hp ho => ?_, fun s hp ho => ?_, fun s v rest hp ho => ?_, fun s hp ho => ?_⟩
  · rw [← decodeBeatOut_enc_data]
    exact step_takeBeat_data (u := .enc) rfl hp ho
  · exact step_takeBeat_end (u := .enc) rfl hp ho
  · rw [← decodeBeatOut_dec_data]
    exact step_takeBeat_data (u := .dec) rfl hp ho
  · exact step_takeBeat_end (u := .dec) rfl hp ho

/-! the events, one by one -/

/-- Settles O11: the two outcomes of `PUSH` in LOAD. -/
theorem pushMeaning : Obligations.PushMeaning := by
  refine ⟨fun v => ⟨decode_beatIn (decodeBeatIn_enc_data v),
      decode_beatIn (decodeBeatIn_dec_data v)⟩,
    fun s v hp hm => ?_, fun s v hp hm => ?_, fun s v m hp hm hl => ?_, fun s v m hp hm hl => ?_⟩
  · exact congrArg Host.Outcome.next (push_accepted (u := .enc) hp hm)
  · exact congrArg Host.Outcome.next (push_accepted (u := .dec) hp hm)
  · subst hl
    exact congrArg Host.Outcome.next (push_overflow (u := .enc) hp hm)
  · subst hl
    exact congrArg Host.Outcome.next (push_overflow (u := .dec) hp hm)

/-- `END` on ENC in LOAD. -/
theorem exec_encEnd_of_load {s : State} (hp : s.enc.phase = .load) (d : Byte) :
    exec (.encEnd d) s = .next { s with enc :=
      { s.enc with obuf := encodeMsg s.enc.ibuf, ibuf := [], phase := .drain } } := by
  have he : endEnc s.enc =
      { s.enc with obuf := encodeMsg s.enc.ibuf, ibuf := [], phase := .drain } := if_pos hp
  exact congrArg (fun x => Host.Outcome.next { s with enc := x }) he

/-- Settles O12: in LOAD the whole message is encoded at once, and ENCODE writes both markers. -/
theorem encEndMeaning : Obligations.EncEndMeaning := by
  refine ⟨fun d => decode_beatIn (decodeBeatIn_enc_end d), fun s d hp => exec_encEnd_of_load hp d,
    fun s d hp => exec_input_of_not_load (.inl rfl) hp, fun b => ?_, by decide, by decide⟩
  rw [length_encodeMsg]
  exact Nat.le_add_left ..

/-- DECODE faults exactly when CHECK finds a symbol of class BAD. -/
theorem decodeMsg_invalidInput_iff (x : List Byte) :
    (∃ sym idx, decodeMsg x = .invalidInput sym idx) ↔ ∃ c ∈ (stripm x).1, symClass c = .bad := by
  have hnone := not_congr (check_eq_none_iff (t := (stripm x).1) (a := (stripm x).2))
  push Not at hnone
  rw [← hnone, Option.ne_none_iff_exists']
  simp only [decodeMsg_eq_invalidInput_iff, Prod.exists]

/-- A message of whitespace decodes to no byte. -/
theorem decodeMsg_of_ws {x : List Byte} (h : ∀ c ∈ x, symClass c = .ws) :
    decodeMsg x = .bytes [] := by
  have hbad (c) (hc : c ∈ x) : symClass c ≠ .bad := by simp [h c hc]
  obtain ⟨hopen, hclose⟩ := not_marker_of_no_bad hbad
  have hm : Markers [] x [] := ⟨.inr ⟨rfl, by rwa [List.append_nil]⟩, .inr ⟨rfl, hclose⟩⟩
  have hw : stripw x = [] := List.filter_eq_nil_iff.mpr fun c hc => by simp [h c hc]
  have hx := hm.decodeMsg_eq hbad
  rw [hw, List.nil_append, List.append_nil] at hx
  exact hx

/-- Settles O13: the two outcomes of DECODE in LOAD, and when each is met. -/
theorem decEndMeaning : Obligations.DecEndMeaning :=
  ⟨fun d => decode_beatIn (decodeBeatIn_dec_end d), fun _ d _ hp h => exec_decEnd_bytes hp h d,
    fun _ d _ _ hp h => exec_decEnd_invalidInput hp h d, decodeMsg_invalidInput_iff,
    fun _ _ hp => exec_input_of_not_load (.inl rfl) hp, by decide, by decide, by decide, by decide,
    fun _ => decodeMsg_of_ws, by decide⟩

/-- `POP` of the symbol the unit presents. -/
theorem popData_of_presented {u : UnitId} {v : Byte} {rest : List Byte} {s : State}
    (hp : (getUnit u s).phase = .drain) (ho : (getUnit u s).obuf = v :: rest) :
    popData u v s = deliver u (dataBeat v) (setUnit u { getUnit u s with obuf := rest } s) := by
  have h : presentsData v (getUnit u s) = true := (presentsData_iff v _).mpr ⟨hp, rest, ho⟩
  simp [popData, h, ho]

/-- `POP` of the end beat the unit presents. -/
theorem popEnd_of_presented {u : UnitId} {s : State} (hp : (getUnit u s).phase = .drain)
    (ho : (getUnit u s).obuf = []) :
    popEnd u 0x00#8 s = deliver u endBeat (setUnit u { getUnit u s with phase := .load } s) := by
  have h : presentsEnd 0x00#8 (getUnit u s) = true := (presentsEnd_iff _ _).mpr ⟨hp, ho, rfl⟩
  simp [popEnd, h, endBeat]

/-- The word of a beat a unit presents in DRAIN decodes to that beat's instruction. -/
theorem decode_presented {u : UnitId} {x : UnitState} {b : Beat} (hp : x.phase = .drain)
    (hb : presentedBeat x = b) :
    decode (.beatOut u) (outKind x ++ outData x).toNat = .ok (decodeBeatOut u b) :=
  hb ▸ decode_presentedBeat u hp

/-- Settles O14: the presented beat is the first symbol, and taking it delivers and drops it. -/
theorem popDataMeaning : Obligations.PopDataMeaning := by
  refine ⟨fun s v rest hp ho => ⟨?_, ?_⟩, fun s v rest hp ho => ⟨?_, ?_⟩⟩
  · rw [← decodeBeatOut_enc_data]
    exact decode_presented hp (presentedBeat_of_cons hp ho)
  · exact congrArg Host.Outcome.next (popData_of_presented (u := .enc) hp ho)
  · rw [← decodeBeatOut_dec_data]
    exact decode_presented hp (presentedBeat_of_cons hp ho)
  · exact congrArg Host.Outcome.next (popData_of_presented (u := .dec) hp ho)

/-- A legal record that returns from an emptied DRAIN is the reset record (10_state.md R34). -/
theorem reset_of_legal_drain {u : UnitId} {max : Option Nat} {x : UnitState}
    (hp : x.phase = .drain) (ho : x.obuf = []) (h : unitLegal u max x = true) :
    { x with phase := .load } = UnitState.reset := by
  obtain ⟨hf, hi⟩ := (unitLegal_drain_iff hp).mp h
  obtain ⟨he, hs, hx⟩ := (noFaultRecord_iff x).mp hf
  simp [UnitState.reset, hi, ho, he, hs, hx, errNone]

/-- Settles O15: with nothing left the end beat is presented, and taking it returns to LOAD. -/
theorem popEndMeaning : Obligations.PopEndMeaning := by
  refine ⟨fun s hp ho => ⟨?_, ?_, fun hs => reset_of_legal_drain hp ho hs.1⟩,
    fun s hp ho => ⟨?_, ?_, fun hs => reset_of_legal_drain hp ho hs.2⟩⟩
  · exact decode_presented hp (presentedBeat_of_nil hp ho)
  · exact congrArg Host.Outcome.next (popEnd_of_presented (u := .enc) hp ho)
  · exact decode_presented hp (presentedBeat_of_nil hp ho)
  · exact congrArg Host.Outcome.next (popEnd_of_presented (u := .dec) hp ho)

/-- Settles O16: RESET writes the reset record in every state. -/
theorem resetMeaning : Obligations.ResetMeaning :=
  ⟨fun _ => rfl, fun _ => rfl, fun _ => rfl⟩

/-! what an event leaves unchanged in its own unit (20_memory.md R52, R59) -/

/-- An instruction that carries one symbol is the `PUSH` of some symbol. -/
theorem exec_dataBeat {i : Instr} {s t : State} (ht : exec i s = .next t) (h : DataBeat i) :
    ∃ v, t = push (unitOf i) v s := by
  cases exec_effect ht with
  | push _ v => exact ⟨v, rfl⟩
  | encEnd => simp [DataBeat, encode] at h
  | decEnd => simp [DataBeat, encode] at h
  | popData _ _ _ lane => exact absurd lane (h.inputLane.ne_beatOut _)
  | popEnd _ _ _ lane => exact absurd lane (h.inputLane.ne_beatOut _)
  | reset u => exact absurd rfl (h.inputLane.ne_rst u)

/-- Two records with the same fault fields. -/
def SameFaultFields (x y : UnitState) : Prop :=
  y.err = x.err ∧ y.errSym = x.errSym ∧ y.errIdx = x.errIdx

theorem pushUnit_sameFaultFields {max : Option Nat} {v : Byte} {x : UnitState}
    (h : (pushUnit max v x).phase ≠ .fault) : SameFaultFields x (pushUnit max v x) := by
  rcases pushUnit_cases max v x with ⟨-, e⟩ | ⟨-, -, e⟩ | ⟨-, -, e⟩ <;> rw [e] at h ⊢
  · exact ⟨rfl, rfl, rfl⟩
  · exact ⟨rfl, rfl, rfl⟩
  · exact absurd rfl h

theorem endUnit_sameFaultFields {u : UnitId} {x : UnitState}
    (h : (endUnit u x).phase ≠ .fault) : SameFaultFields x (endUnit u x) := by
  rcases endUnit_cases u x with ⟨-, e⟩ | ⟨_, -, e⟩ | ⟨_, _, -, -, e⟩ <;> rw [e] at h ⊢
  · exact ⟨rfl, rfl, rfl⟩
  · exact ⟨rfl, rfl, rfl⟩
  · exact absurd rfl h

/-- A `PUSH` that does not fault writes `ibuf` only, and there the index of its old length only. -/
theorem pushUnit_frame {max : Option Nat} {v : Byte} {x : UnitState}
    (h : (pushUnit max v x).phase ≠ .fault) :
    (pushUnit max v x).phase = x.phase ∧ (pushUnit max v x).obuf = x.obuf ∧
    ∀ a : Nat, a ≠ x.ibuf.length → (pushUnit max v x).ibuf[a]? = x.ibuf[a]? := by
  rcases pushUnit_cases max v x with ⟨-, e⟩ | ⟨-, -, e⟩ | ⟨-, -, e⟩ <;> rw [e] at h ⊢
  · exact ⟨rfl, rfl, fun _ _ => rfl⟩
  · refine ⟨rfl, rfl, fun a ha => ?_⟩
    rcases Nat.lt_or_gt_of_ne ha with hlt | hgt
    · exact List.getElem?_append_left hlt
    · rw [List.getElem?_eq_none hgt.le, List.getElem?_eq_none (by simpa using hgt)]
  · exact absurd rfl h

/-- Settles O33: what `PUSH` and `END` write of their record, read off their cases. -/
theorem inputInstructionsFrame : Obligations.InputInstructionsFrame := by
  refine ⟨fun i s t hlane ht => ?_, fun i s t hdata ht => ?_⟩
  · rcases exec_input_cases ht hlane with ⟨v, rfl⟩ | rfl
    · rw [push, takenFrom_setUnit, getUnit_setUnit]
      exact ⟨rfl, pushUnit_sameFaultFields⟩
    · rw [takenFrom_setUnit, getUnit_setUnit]
      exact ⟨rfl, endUnit_sameFaultFields⟩
  · obtain ⟨v, rfl⟩ := exec_dataBeat ht hdata
    rw [push, getUnit_setUnit]
    exact pushUnit_frame

/-- Settles O34: a `POP` changes nothing, drops the symbol it delivers, or returns to LOAD. -/
theorem outputInstructionsFrame : Obligations.OutputInstructionsFrame := by
  intro i s t hlane ht
  rcases exec_output_cases ht hlane with ⟨v, rfl⟩ | ⟨d, rfl⟩
  · rcases popData_cases (unitOf i) v s with ⟨-, e⟩ | ⟨rest, -, ho, e⟩ <;> rw [e]
    · exact ⟨rfl, rfl, rfl, rfl, .inl rfl, .inl rfl⟩
    · rw [getUnit_deliver, getUnit_setUnit, takenFrom_deliver, takenFrom_setUnit]
      exact ⟨rfl, rfl, rfl, rfl, .inr ⟨v, ho, rfl⟩, .inl rfl⟩
  · rcases popEnd_cases (unitOf i) d s with ⟨-, e⟩ | ⟨hp, -, -, e⟩ <;> rw [e]
    · exact ⟨rfl, rfl, rfl, rfl, .inl rfl, .inl rfl⟩
    · rw [getUnit_deliver, getUnit_setUnit]
      exact ⟨rfl, rfl, rfl, rfl, .inl rfl, .inr ⟨hp, rfl⟩⟩

/-! the changes of phase (44_port_protocol.md R216) -/

theorem pushUnit_phase_change {max : Option Nat} {v : Byte} {x : UnitState}
    (h : (pushUnit max v x).phase ≠ x.phase) :
    x.phase = .load ∧ (pushUnit max v x).phase = .fault := by
  rcases pushUnit_cases max v x with ⟨-, e⟩ | ⟨-, -, e⟩ | ⟨hp, -, e⟩ <;> rw [e] at h ⊢
  · exact absurd rfl h
  · exact absurd rfl h
  · exact ⟨hp, rfl⟩

theorem endUnit_phase_change {u : UnitId} {x : UnitState} (h : (endUnit u x).phase ≠ x.phase) :
    x.phase = .load ∧
      ((endUnit u x).phase = .drain ∨ u = .dec ∧ (endUnit u x).phase = .fault) := by
  rcases endUnit_cases u x with ⟨-, e⟩ | ⟨_, hp, e⟩ | ⟨_, _, hp, hu, e⟩ <;> rw [e] at h ⊢
  · exact absurd rfl h
  · exact ⟨hp, .inl rfl⟩
  · exact ⟨hp, .inr ⟨hu, rfl⟩⟩

theorem getUnit_popData_phase (u : UnitId) (v : Byte) (s : State) :
    (getUnit u (popData u v s)).phase = (getUnit u s).phase := by
  rcases popData_cases u v s with ⟨-, e⟩ | ⟨_, -, -, e⟩ <;> rw [e]
  rw [getUnit_deliver, getUnit_setUnit]

theorem popEnd_phase_change {u : UnitId} {d : Byte} {s : State}
    (h : (getUnit u (popEnd u d s)).phase ≠ (getUnit u s).phase) :
    (getUnit u s).phase = .drain ∧ (getUnit u (popEnd u d s)).phase = .load ∧
      (getUnit u s).obuf = [] ∧ d = 0x00#8 := by
  rcases popEnd_cases u d s with ⟨-, e⟩ | ⟨hp, ho, hd, e⟩
  · exact absurd (by rw [e]) h
  · exact ⟨hp, by rw [e, getUnit_deliver, getUnit_setUnit], ho, hd⟩

/-- Settles O37: the changes of phase each effect of an instruction allows. -/
theorem phaseChanges : Obligations.PhaseChanges := by
  intro i s t ht hne
  cases exec_effect ht with
  | push _ v _ kind =>
    rw [push, getUnit_setUnit] at hne ⊢
    obtain ⟨hs, hf⟩ := pushUnit_phase_change hne
    refine .inr (.inl ⟨hs, hf, ?_⟩)
    rcases kind with k | k | k | k
    · exact .inl k
    · exact .inr (.inl k)
    · exact .inr (.inr (.inl k))
    · exact .inr (.inr (.inr (.inl k)))
  | encEnd d =>
    obtain ⟨hs, hd | ⟨hu, -⟩⟩ := endUnit_phase_change (u := .enc) hne
    · exact .inl ⟨hs, hd, .inl ⟨d, rfl⟩⟩
    · cases hu
  | decEnd d =>
    obtain ⟨hs, hd | ⟨-, hf⟩⟩ := endUnit_phase_change (u := .dec) hne
    · exact .inl ⟨hs, hd, .inr ⟨d, rfl⟩⟩
    · exact .inr (.inl ⟨hs, hf, .inr (.inr (.inr (.inr ⟨d, rfl⟩)))⟩)
  | popData _ v => exact absurd (getUnit_popData_phase _ v s) hne
  | popEnd _ d _ _ operand =>
    obtain ⟨hs, hl, ho, rfl⟩ := popEnd_phase_change hne
    exact .inr (.inr (.inl ⟨hs, hl, ho, operand⟩))
  | reset u => exact .inr (.inr (.inr ⟨by cases u <;> rfl, rfl⟩))

end Sys2Proof.Machine
end

section
/-! PROOFS of the statements about whole messages at the ports (44_port_protocol.md R208,
95_test_vectors.md T10): a run of a message in and of a message out, by induction on its symbols. -/

namespace Sys2Proof.Machine

/-! a step at the port of one unit -/

/-- `s` with the record `x` in unit `u`, the beats `bs` added to what the host has taken from it,
and `rest` left to drive. -/
def withPort (u : UnitId) (x : UnitState) (bs : List Beat) (rest : List Drive) (s : State) :
    State :=
  match u with
  | .enc => { s with enc := x, encTaken := s.encTaken ++ bs, script := rest }
  | .dec => { s with dec := x, decTaken := s.decTaken ++ bs, script := rest }

section
variable (u : UnitId) (x : UnitState) (bs : List Beat) (rest : List Drive) (s : State)

@[simp] theorem getUnit_withPort : getUnit u (withPort u x bs rest s) = x := by cases u <;> rfl

@[simp] theorem inMax_withPort : inMax u (withPort u x bs rest s) = inMax u s := by
  cases u <;> rfl

@[simp] theorem withPort_script : (withPort u x bs rest s).script = rest := by cases u <;> rfl

@[simp] theorem withPort_withPort (y : UnitState) (cs : List Beat) (q : List Drive) :
    withPort u x bs rest (withPort u y cs q s) = withPort u x (cs ++ bs) rest s := by
  cases u <;> simp [withPort]

end

section
variable {u : UnitId} {s : State} {e : Drive} {rest : List Drive} (hs : s.script = e :: rest)
include hs

theorem setUnit_dropDrive (x : UnitState) :
    setUnit u x (dropDrive s) = withPort u x [] rest s := by
  cases u <;> simp [dropDrive_of_script hs, setUnit, withPort]

theorem deliver_setUnit_dropDrive (x : UnitState) (b : Beat) :
    deliver u b (setUnit u x (dropDrive s)) = withPort u x [b] rest s := by
  cases u <;> simp [dropDrive_of_script hs, setUnit, deliver, withPort]

end

theorem exec_decodeBeatIn_data (u : UnitId) (v : Byte) (s : State) :
    exec (decodeBeatIn u (dataBeat v)) s = .next (push u v s) := by
  cases u
  · exact congrArg (exec · s) (decodeBeatIn_enc_data v)
  · exact congrArg (exec · s) (decodeBeatIn_dec_data v)

theorem exec_decodeBeatIn_end (u : UnitId) (s : State) :
    exec (decodeBeatIn u endBeat) s = .next (setUnit u (endUnit u (getUnit u s)) s) := by
  cases u <;> rfl

theorem exec_decodeBeatOut_data (u : UnitId) (v : Byte) (s : State) :
    exec (decodeBeatOut u (dataBeat v)) s = .next (popData u v s) := by
  cases u
  · exact congrArg (exec · s) (decodeBeatOut_enc_data v)
  · exact congrArg (exec · s) (decodeBeatOut_dec_data v)

theorem exec_decodeBeatOut_end (u : UnitId) (s : State) :
    exec (decodeBeatOut u endBeat) s = .next (popEnd u 0x00#8 s) := by
  cases u <;> rfl

theorem step_push_accepted {u : UnitId} {v : Byte} {rest : List Drive} {s : State}
    (hs : s.script = offerBeat u (dataBeat v) :: rest) (hp : (getUnit u s).phase = .load)
    (hm : inMax u s ≠ some (getUnit u s).ibuf.length) :
    step s = .next
      (withPort u { getUnit u s with ibuf := (getUnit u s).ibuf ++ [v] } [] rest s) := by
  rw [step_offerBeat hs, exec_decodeBeatIn_data,
    push_accepted (by simpa using hp) (by simpa using hm), getUnit_dropDrive, setUnit_dropDrive hs]

theorem step_endUnit {u : UnitId} {rest : List Drive} {s : State}
    (hs : s.script = offerBeat u endBeat :: rest) :
    step s = .next (withPort u (endUnit u (getUnit u s)) [] rest s) := by
  rw [step_offerBeat hs, exec_decodeBeatIn_end, getUnit_dropDrive, setUnit_dropDrive hs]

theorem step_popData {u : UnitId} {v : Byte} {ys : List Byte} {rest : List Drive} {s : State}
    (hs : s.script = takeBeat u :: rest) (hp : (getUnit u s).phase = .drain)
    (ho : (getUnit u s).obuf = v :: ys) :
    step s = .next (withPort u { getUnit u s with obuf := ys } [dataBeat v] rest s) := by
  rw [step_takeBeat_data hs hp ho, exec_decodeBeatOut_data,
    popData_of_presented (by simpa using hp) (by simpa using ho), getUnit_dropDrive,
    deliver_setUnit_dropDrive hs]

theorem step_popEnd {u : UnitId} {rest : List Drive} {s : State}
    (hs : s.script = takeBeat u :: rest) (hp : (getUnit u s).phase = .drain)
    (ho : (getUnit u s).obuf = []) :
    step s = .next (withPort u { getUnit u s with phase := .load } [endBeat] rest s) := by
  rw [step_takeBeat_end hs hp ho, exec_decodeBeatOut_end,
    popEnd_of_presented (by simpa using hp) (by simpa using ho), getUnit_dropDrive,
    deliver_setUnit_dropDrive hs]

/-! a whole message in and a whole message out -/

theorem ne_some_of_withinMax_add {max : Option Nat} {n k : Nat}
    (h : withinMax max (n + (k + 1)) = true) : max ≠ some n := by
  rintro rfl
  have := withinMax_some.mp h
  omega

/-- Sending a message that fits: every symbol is accepted, then `END` works on the whole message. -/
theorem run_sendMsg {u : UnitId} {x : List Byte} {rest : List Drive} {s : State}
    (hs : s.script = sendMsg u x ++ rest) (hp : (getUnit u s).phase = .load)
    (hm : withinMax (inMax u s) ((getUnit u s).ibuf.length + x.length) = true) :
    Host.Core.run core (x.length + 1) s = .next (withPort u
      (endUnit u { getUnit u s with ibuf := (getUnit u s).ibuf ++ x }) [] rest s) := by
  induction x generalizing s with
  | nil =>
    rw [List.append_nil]
    exact run_succ (M := core) (step_endUnit hs) 0
  | cons v x ih =>
    replace hs : s.script = offerBeat u (dataBeat v) :: (sendMsg u x ++ rest) := hs
    have hstep := step_push_accepted hs hp (ne_some_of_withinMax_add hm)
    rw [List.length_cons, run_succ (M := core) hstep, ih]
    · simp
    · simp
    · simpa using hp
    · simpa [Nat.add_assoc, Nat.add_comm 1] using hm

theorem run_sendMsg_of_reset {u : UnitId} {x : List Byte} {rest : List Drive} {s : State}
    (hs : s.script = sendMsg u x ++ rest) (hu : getUnit u s = UnitState.reset)
    (hm : withinMax (inMax u s) x.length = true) :
    Host.Core.run core (x.length + 1) s =
      .next (withPort u (endUnit u { UnitState.reset with ibuf := x }) [] rest s) := by
  rw [run_sendMsg hs (by rw [hu]; rfl) (by simpa [hu, UnitState.reset] using hm), hu]
  rfl

/-- Taking a whole message: its data beats and the end beat are delivered in order. -/
theorem run_takeMsg {u : UnitId} {y : List Byte} {rest : List Drive} {s : State}
    (hs : s.script = takeMsg u y.length ++ rest) (hp : (getUnit u s).phase = .drain)
    (ho : (getUnit u s).obuf = y) :
    Host.Core.run core (y.length + 1) s = .next (withPort u
      { getUnit u s with obuf := [], phase := .load } (msgBeats y) rest s) := by
  induction y generalizing s with
  | nil =>
    have hrec : { getUnit u s with obuf := [], phase := .load } =
        { getUnit u s with phase := .load } := by rw [← ho]
    rw [hrec]
    exact run_succ (M := core) (step_popEnd hs hp ho) 0
  | cons v y ih =>
    replace hs : s.script = takeBeat u :: (takeMsg u y.length ++ rest) := hs
    rw [List.length_cons, run_succ (M := core) (step_popData hs hp ho), ih]
    · simp [msgBeats]
    · simp
    · simpa using hp
    · simp

/-- A message in and the message it makes out: the unit is back in the reset record, and the host
holds the output. -/
theorem run_message {u : UnitId} {x y : List Byte} {rest : List Drive} {s : State}
    (hs : s.script = sendMsg u x ++ takeMsg u y.length ++ rest)
    (hu : getUnit u s = UnitState.reset) (hm : withinMax (inMax u s) x.length = true)
    (hend : endUnit u { UnitState.reset with ibuf := x } =
      { UnitState.reset with obuf := y, phase := .drain }) :
    Host.Core.run core ((x.length + 1) + (y.length + 1)) s =
      .next (withPort u UnitState.reset (msgBeats y) rest s) := by
  rw [List.append_assoc] at hs
  have hsend := run_sendMsg_of_reset hs hu hm
  rw [hend] at hsend
  rw [run_add hsend, run_takeMsg (withPort_script ..) (by rw [getUnit_withPort])
    (by rw [getUnit_withPort]), getUnit_withPort, withPort_withPort]
  rfl

/-- Settles O59: `END` on ENC turns the received message into ENCODE of it. -/
theorem encodeRun : Obligations.EncodeRun := by
  intro s x rest hu hm hs
  rw [run_message (u := .enc) hs hu hm rfl, withPort, ← hu]

/-- Settles O60: `END` on DEC turns the received message into DECODE of it, or into the fault. -/
theorem decodeRun : Obligations.DecodeRun := by
  refine ⟨fun s x b rest hu hm hb hs => ?_, fun s x sym idx rest hu hm hf hs => ?_⟩
  · have hend : endUnit .dec { UnitState.reset with ibuf := x } =
        { UnitState.reset with obuf := b, phase := .drain } := by
      simp [endUnit, endDec, hb, UnitState.reset]
    rw [run_message (u := .dec) hs hu hm hend, withPort, ← hu]
  · have hend : endUnit .dec { UnitState.reset with ibuf := x } =
        faultEntry errInvalidInput sym idx := by
      simp [endUnit, endDec, hf, UnitState.reset]
    rw [run_sendMsg_of_reset (u := .dec) hs hu hm, hend, withPort, List.append_nil]
    rfl

end Sys2Proof.Machine
end

section
/-! PROOFS of the statements about the faults (60_exceptions.md): how a unit enters FAULT, and that it
stays there until reset. -/

namespace Sys2Proof.Machine

/-! entry into FAULT (60_exceptions.md R236) -/

/-- A `PUSH` takes a unit into FAULT only on a full buffer. -/
theorem pushUnit_enters_fault {max : Option Nat} {v : Byte} {x : UnitState}
    (hx : x.phase ≠ .fault) (hf : (pushUnit max v x).phase = .fault) :
    max = some x.ibuf.length ∧
      pushUnit max v x = faultEntry errBufferOverflow v x.ibuf.length := by
  rcases pushUnit_cases max v x with ⟨-, e⟩ | ⟨-, -, e⟩ | ⟨-, hm, e⟩
  · exact absurd (e ▸ hf) hx
  · rw [e] at hf
    exact absurd hf hx
  · exact ⟨hm, e⟩

/-- `END` takes DEC into FAULT only with the symbol and the index DECODE reports. -/
theorem endDec_enters_fault {x : UnitState} (hx : x.phase ≠ .fault)
    (hf : (endDec x).phase = .fault) :
    ∃ sym idx, decodeMsg x.ibuf = .invalidInput sym idx ∧
      endDec x = faultEntry errInvalidInput sym idx := by
  rcases endDec_cases x with ⟨-, e⟩ | ⟨_, -, -, e⟩ | ⟨sym, idx, -, hd, e⟩
  · exact absurd (e ▸ hf) hx
  · rw [e] at hf
    cases hf
  · exact ⟨sym, idx, hd, e⟩

/-- `END` never takes ENC into FAULT: every code is a legal payload byte. -/
theorem endEnc_keeps_out_of_fault {x : UnitState} (hx : x.phase ≠ .fault) :
    (endEnc x).phase ≠ .fault := by
  rcases endEnc_cases x with ⟨-, e⟩ | ⟨-, e⟩ <;> rw [e]
  · exact hx
  · simp

theorem popEnd_keeps_out_of_fault {u : UnitId} {d : Byte} {s : State}
    (hs : (getUnit u s).phase ≠ .fault) : (getUnit u (popEnd u d s)).phase ≠ .fault := by
  intro hf
  have hne : (getUnit u (popEnd u d s)).phase ≠ (getUnit u s).phase := fun h => hs (h ▸ hf)
  obtain ⟨-, hl, -, -⟩ := popEnd_phase_change hne
  rw [hf] at hl
  cases hl

/-- Settles O38: only `PUSH`, and `END` on DEC, take a unit into FAULT, and each writes the fault
record of its cause over the unit's record. -/
theorem faultEntry_saves_cause : Obligations.FaultEntry := by
  intro i s t ht hs hf
  cases exec_effect ht with
  | push _ v _ _ operand =>
    rw [push, getUnit_setUnit] at hf
    obtain ⟨hfull, e⟩ := pushUnit_enters_fault hs hf
    rw [push, getUnit_setUnit, takenFrom_setUnit, e]
    exact ⟨rfl, rfl, rfl, setUnit_sameOutside _ _ s, .inl ⟨rfl, hfull, rfl, operand⟩⟩
  | encEnd => exact absurd hf (endEnc_keeps_out_of_fault hs)
  | decEnd d =>
    obtain ⟨sym, idx, hd, e⟩ := endDec_enters_fault (x := s.dec) hs hf
    rw [e]
    exact ⟨rfl, rfl, rfl, setUnit_sameOutside _ _ s, .inr ⟨rfl, ⟨d, rfl⟩, hd⟩⟩
  | popData _ v => exact absurd ((getUnit_popData_phase _ v s).symm.trans hf) hs
  | popEnd => exact absurd hf (popEnd_keeps_out_of_fault hs)
  | reset u => cases u <;> cases hf

/-! a unit stays in FAULT until reset (60_exceptions.md R238) -/

/-- Every instruction but `RESET` is one of an input lane or of the output lane of its unit. -/
theorem lane_cases (i : Instr) :
    InputLane i ∨ (encode i).1 = .beatOut (unitOf i) ∨ i = .reset (unitOf i) := by
  obtain ⟨t, ht⟩ := exec_answers_next i State.reset
  cases exec_effect ht with
  | push _ _ _ kind => exact .inl (DataBeat.inputLane kind)
  | encEnd => exact .inl (.inl rfl)
  | decEnd => exact .inl (.inl rfl)
  | popData _ _ _ lane => exact .inr (.inl lane)
  | popEnd _ _ _ lane => exact .inr (.inl lane)
  | reset => exact .inr (.inr rfl)

/-- In FAULT a unit neither accepts nor presents a beat: its instructions but `RESET` do nothing. -/
theorem exec_of_fault {i : Instr} {s : State} (hp : (getUnit (unitOf i) s).phase = .fault)
    (hi : i ≠ .reset (unitOf i)) : exec i s = .next s := by
  rcases lane_cases i with h | h | h
  · exact exec_input_of_not_load h (by simp [hp])
  · exact exec_output_of_not_drain h (by simp [hp])
  · exact absurd h hi

theorem eq_otherUnit_of_ne {u v : UnitId} (h : u ≠ v) : u = otherUnit v := by
  cases u <;> cases v
  · exact absurd rfl h
  · rfl
  · rfl
  · exact absurd rfl h

/-- An instruction but `RESET` of `u` keeps all that belongs to `u` in FAULT: one of `u` does nothing,
one of the other unit stays outside `u`. -/
theorem exec_sameUnit_of_fault {u : UnitId} {i : Instr} {s t : State}
    (hp : (getUnit u s).phase = .fault) (hi : i ≠ .reset u) (ht : exec i s = .next t) :
    SameUnit u s t := by
  by_cases hu : u = unitOf i
  · subst hu
    rw [exec_of_fault hp hi] at ht
    cases ht
    exact ⟨rfl, rfl, rfl⟩
  · rw [eq_otherUnit_of_ne hu]
    exact (exec_effect ht).sameOutside.sameUnit

/-- Only an asserted `rst` puts a word on the reset lane. -/
theorem edge_of_fetch_rst {e : Drive} {s : State} {u : UnitId} {w : Nat}
    (h : fetch e s = some (.rst u, w)) : ∃ p, e = .edge u p ∧ p.rst = true := by
  cases e with
  | edge v p =>
    simp only [fetch] at h
    split at h
    · next hr => cases h; exact ⟨p, rfl, hr⟩
    · split at h
      · cases h
      · split at h <;> cases h
  | byte v => rw [fetch_byte] at h; split at h <;> cases h
  | char c => rw [fetch_char] at h; split at h <;> cases h

/-- A step whose drive does not assert `rst` on `u` keeps all that belongs to `u` in FAULT. -/
theorem step_sameUnit_of_fault {u : UnitId} {s t : State} (hp : (getUnit u s).phase = .fault)
    (hrst : ∀ p rest, s.script = .edge u p :: rest → p.rst = false) (h : step s = .next t) :
    SameUnit u s t := by
  have hdrop : SameUnit u s (dropDrive s) := ⟨rfl, getUnit_dropDrive u s, takenFrom_dropDrive u s⟩
  rcases step_cases h with ⟨-, rfl⟩ | ⟨_, _, -, -, rfl⟩ | ⟨e, rest, l, w, i, hs, hf, hd, hx⟩
  · exact ⟨rfl, rfl, rfl⟩
  · exact hdrop
  · have hi : i ≠ .reset u := by
      rintro rfl
      obtain ⟨henc, -⟩ := encodeOfDecode l w _ hd
      cases henc
      obtain ⟨p, rfl, hr⟩ := edge_of_fetch_rst hf
      simp [hrst p rest hs] at hr
    exact hdrop.trans (exec_sameUnit_of_fault (by rwa [getUnit_dropDrive]) hi hx)

/-- Settles O36: in FAULT no beat is accepted or presented, so only `RESET` changes the unit. -/
theorem faultIsSticky : Obligations.FaultIsSticky := by
  refine ⟨fun u i s t hp hi ht => ?_, fun u s t hp hrst ht => ?_, fun u s hp => ⟨?_, ?_, ?_⟩⟩
  · obtain ⟨-, hunit, htaken⟩ := exec_sameUnit_of_fault hp hi ht
    exact ⟨hunit, htaken⟩
  · obtain ⟨-, hunit, htaken⟩ := step_sameUnit_of_fault hp hrst ht
    exact ⟨hunit, htaken⟩
  · simp [inReady, hp]
  · simp [outValid, hp]
  · exact ⟨resetUnit u s, rfl, by rw [resetUnit, getUnit_setUnit]; rfl⟩

end Sys2Proof.Machine
end
